-- ==== Sys2Proof/Word.lean ====
section
/-!
DEFINITION. The byte, and the closed sets of names the spec gives its values: parameter kinds (R40), result
codes (R30), the fields of an EEPROM record (R34). Types and their plainest accessors only.
-/

namespace Sys2Proof

/-- A wire byte or buffer byte: an unsigned 8-bit value (R9). -/
abbrev Byte := BitVec 8

/-- The parameter kinds of the command port (R40, R200). -/
inductive ParamKind where
  | eeprom
  | stretch
  | speed
  | current
  | temperature
deriving DecidableEq, Repr

/-- The result codes of RET (R30), `none` being "no operation has completed since reset". -/
inductive RetCode where
  | none
  | ok
  | readError
  | writeError
  | idMismatch
  | invalidOption
  | returnDataWrong
  | eepromDataWrong
deriving DecidableEq, Repr

/-- EepromRecord (R34): 22 fields, each `some v` or `none`, the latter being the spec's `NotChanged` (R15, D4).
A freshly constructed record holds `NotChanged` everywhere. -/
structure EepromRecord where
  stretch          : Option Int := none
  speed            : Option Int := none
  punch            : Option Int := none
  deadband         : Option Int := none
  dumping          : Option Int := none
  safetimer        : Option Int := none
  slave            : Option Bool := none
  rotation         : Option Bool := none
  pwminhibit       : Option Bool := none
  free             : Option Bool := none
  reverse          : Option Bool := none
  poslimithigh     : Option Int := none
  poslimitlow      : Option Int := none
  commspeed        : Option Int := none
  temperaturelimit : Option Int := none
  currentlimit     : Option Int := none
  response         : Option Int := none
  offset           : Option Int := none
  id               : Option Int := none
  charstretch1     : Option Int := none
  charstretch2     : Option Int := none
  charstretch3     : Option Int := none
deriving DecidableEq, Repr

/-- The record whose every field is `NotChanged`: OUT_REC's cleared value (R33). -/
def EepromRecord.notChanged : EepromRecord := {}

/-- The fields of R34 by name. -/
inductive Field where
  | stretch | speed | punch | deadband | dumping | safetimer
  | slave | rotation | pwminhibit | free | reverse
  | poslimithigh | poslimitlow | commspeed | temperaturelimit | currentlimit | response | offset | id
  | charstretch1 | charstretch2 | charstretch3
deriving DecidableEq, Repr

/-- The fields in the index order of R34 (index 0 first). -/
def Field.all : List Field :=
  [.stretch, .speed, .punch, .deadband, .dumping, .safetimer, .slave, .rotation, .pwminhibit, .free, .reverse,
   .poslimithigh, .poslimitlow, .commspeed, .temperaturelimit, .currentlimit, .response, .offset, .id,
   .charstretch1, .charstretch2, .charstretch3]

/-- A field's index (R34): the bit of INVALID_MASK it owns (R35). -/
def Field.index : Field → Nat
  | .stretch => 0 | .speed => 1 | .punch => 2 | .deadband => 3 | .dumping => 4 | .safetimer => 5
  | .slave => 6 | .rotation => 7 | .pwminhibit => 8 | .free => 9 | .reverse => 10
  | .poslimithigh => 11 | .poslimitlow => 12 | .commspeed => 13 | .temperaturelimit => 14 | .currentlimit => 15
  | .response => 16 | .offset => 17 | .id => 18
  | .charstretch1 => 19 | .charstretch2 => 20 | .charstretch3 => 21

/-- A field's value: a number, or the boolean of a flag (R34). -/
inductive FieldValue where
  | num (v : Int)
  | flag (b : Bool)
deriving DecidableEq, Repr

/-- `rec[i]` of R271: the value a record holds for a field, `none` being `NotChanged`. -/
def EepromRecord.get (r : EepromRecord) : Field → Option FieldValue
  | .stretch => r.stretch.map .num
  | .speed => r.speed.map .num
  | .punch => r.punch.map .num
  | .deadband => r.deadband.map .num
  | .dumping => r.dumping.map .num
  | .safetimer => r.safetimer.map .num
  | .slave => r.slave.map .flag
  | .rotation => r.rotation.map .flag
  | .pwminhibit => r.pwminhibit.map .flag
  | .free => r.free.map .flag
  | .reverse => r.reverse.map .flag
  | .poslimithigh => r.poslimithigh.map .num
  | .poslimitlow => r.poslimitlow.map .num
  | .commspeed => r.commspeed.map .num
  | .temperaturelimit => r.temperaturelimit.map .num
  | .currentlimit => r.currentlimit.map .num
  | .response => r.response.map .num
  | .offset => r.offset.map .num
  | .id => r.id.map .num
  | .charstretch1 => r.charstretch1.map .num
  | .charstretch2 => r.charstretch2.map .num
  | .charstretch3 => r.charstretch3.map .num

/-- The two modes of validation (R271, R272). -/
inductive ValidationMode where
  | read
  | write
deriving DecidableEq, Repr

/-- CFG_BAUD's domain (R25): NONE until a rate is programmed. -/
inductive BaudReg where
  | none
  | b115200
  | b625000
  | b1250000
deriving DecidableEq, Repr

/-- CFG_DRAIN's domain (R25): the strategy of the drain step (R142). -/
inductive Drain where
  | off
  | loop
deriving DecidableEq, Repr

end Sys2Proof
end

