-- ==== Sys2Proof/Config.lean ====
section
/-!
DEFINITION. What an implementation fixes (R8): the parameters P_DRAIN, P_SUBCODE, P_LAYOUT, P_FLAGBIT,
P_ALIVE_EARLY_EXIT, P_STARTUP_WINDOW and P_READ_TIMEOUT as one record, with the conditions R105 and R122 put on
them. The spec's default values are in Machine/Defaults.lean. The two OPEN parameters and the free inputs are
constants without a body, so that nothing can be proved about their values.
-/

namespace Sys2Proof

/-- The field groups of an EEPROM frame: one per field, the five flags sharing one (R120, R121). -/
inductive Group where
  | stretch | speed | punch | deadband | dumping | safetimer | flags
  | poslimithigh | poslimitlow | commspeed | temperaturelimit | currentlimit | response | offset | id
  | charstretch1 | charstretch2 | charstretch3
deriving DecidableEq, Repr

def Group.all : List Group :=
  [.stretch, .speed, .punch, .deadband, .dumping, .safetimer, .flags, .poslimithigh, .poslimitlow, .commspeed,
   .temperaturelimit, .currentlimit, .response, .offset, .id, .charstretch1, .charstretch2, .charstretch3]

/-- Group sizes in wire bytes (R120, R122): four for the position limits, two for every other group. -/
def Group.size : Group → Nat
  | .poslimithigh => 4
  | .poslimitlow => 4
  | _ => 2

/-- P_LAYOUT (R120): `OFF(f)`, the first frame byte of each group. -/
structure Layout where
  stretch          : Nat
  speed            : Nat
  punch            : Nat
  deadband         : Nat
  dumping          : Nat
  safetimer        : Nat
  flags            : Nat
  poslimithigh     : Nat
  poslimitlow      : Nat
  commspeed        : Nat
  temperaturelimit : Nat
  currentlimit     : Nat
  response         : Nat
  offset           : Nat
  id               : Nat
  charstretch1     : Nat
  charstretch2     : Nat
  charstretch3     : Nat
deriving DecidableEq, Repr

/-- `OFF(g)` (R120). -/
def Layout.off (l : Layout) : Group → Nat
  | .stretch => l.stretch
  | .speed => l.speed
  | .punch => l.punch
  | .deadband => l.deadband
  | .dumping => l.dumping
  | .safetimer => l.safetimer
  | .flags => l.flags
  | .poslimithigh => l.poslimithigh
  | .poslimitlow => l.poslimitlow
  | .commspeed => l.commspeed
  | .temperaturelimit => l.temperaturelimit
  | .currentlimit => l.currentlimit
  | .response => l.response
  | .offset => l.offset
  | .id => l.id
  | .charstretch1 => l.charstretch1
  | .charstretch2 => l.charstretch2
  | .charstretch3 => l.charstretch3

/-- P_FLAGBIT (R121): the bit of the combined flags byte each flag owns. -/
structure FlagBits where
  slave      : Nat
  rotation   : Nat
  pwminhibit : Nat
  free       : Nat
  reverse    : Nat
deriving DecidableEq, Repr

/-- P_SUBCODE (R105): byte 1 of the frames of the four parameter kinds. The EEPROM sub-code is 0x00 for every
configuration. -/
structure Subcodes where
  stretch     : Byte
  speed       : Byte
  current     : Byte
  temperature : Byte
deriving DecidableEq, Repr

/-- Two groups share no frame byte. -/
def Layout.apart (l : Layout) (g h : Group) : Bool :=
  decide (l.off g + g.size ≤ l.off h) || decide (l.off h + h.size ≤ l.off g)

/-- R122's conditions on a layout: every group inside frame bytes 4..65, no two overlapping. -/
def Layout.ok (l : Layout) : Bool :=
  Group.all.all fun g =>
    decide (4 ≤ l.off g) && decide (l.off g + g.size ≤ 66) &&
      Group.all.all fun h => decide (g = h) || l.apart g h

/-- R122's condition on the flag bits: five distinct bits of one byte. -/
def FlagBits.ok (b : FlagBits) : Bool :=
  [b.slave, b.rotation, b.pwminhibit, b.free, b.reverse].all (fun k => decide (k < 8)) &&
    decide ([b.slave, b.rotation, b.pwminhibit, b.free, b.reverse].Nodup)

/-- R105's condition on the sub-codes: distinct, and none of them the EEPROM sub-code 0x00. -/
def Subcodes.ok (c : Subcodes) : Bool :=
  decide ([0x00#8, c.stretch, c.speed, c.current, c.temperature].Nodup)

/-- The implementation parameters (R8). State carries them unchanged, so that a claim about every state is a claim
about every configuration (notes/assumptions/15.md). -/
structure Params where
  /-- P_DRAIN: what reset puts into CFG_DRAIN. -/
  drain          : Drain
  /-- P_SUBCODE. -/
  subcodes       : Subcodes
  /-- P_LAYOUT. -/
  layout         : Layout
  /-- P_FLAGBIT. -/
  flagBits       : FlagBits
  /-- P_ALIVE_EARLY_EXIT. -/
  aliveEarlyExit : Bool
  /-- P_STARTUP_WINDOW: what INIT hands to Delay. -/
  startupWindow  : Nat
  /-- P_READ_TIMEOUT: the transport's; no rule reads it (D44). -/
  readTimeout    : Nat
deriving DecidableEq, Repr

/-- What R105 and R122 ask of any configuration. -/
def Params.ok (p : Params) : Bool :=
  p.subcodes.ok && p.layout.ok && p.flagBits.ok

/-- P_STARTUP_WINDOW is OPEN (R8, D45): a value nothing is known about. -/
opaque Config.startupWindow : Nat

/-- P_READ_TIMEOUT is OPEN (R8, D44): a value nothing is known about. -/
opaque Config.readTimeout : Nat

/-- What `Bus.write` answers where no answer is listed: a free input of the model (R41, D29;
notes/assumptions/22.md). -/
opaque Config.freeWritten : Nat → Nat

/-- What `Bus.avail` answers where no answer is listed: a free input of the model (R41, D29;
notes/assumptions/22.md). -/
opaque Config.freeAvail : Nat → Nat

end Sys2Proof
end

