-- ==== Sys2Proof/Machine/Defaults.lean ====
section
/-!
DEFINITION. The spec's default values for the implementation parameters (R8, R105, R120, R121). The layout, the
flag bits and the sub-codes other than 0x00 are the spec's own general knowledge (K2, K3, K4), PRESUMED in
notes/assumptions/4.md.
-/

namespace Sys2Proof.Machine

/-- P_SUBCODE's default (R105). -/
def defaultSubcodes : Subcodes :=
  { stretch := 0x01#8, speed := 0x02#8, current := 0x03#8, temperature := 0x04#8 }

/-- P_LAYOUT's default (R120). -/
def defaultLayout : Layout :=
  { stretch := 4, speed := 6, punch := 8, deadband := 10, dumping := 12, safetimer := 14, flags := 16
    poslimithigh := 18, poslimitlow := 22, commspeed := 28, temperaturelimit := 30, currentlimit := 32
    response := 52, offset := 54, id := 58, charstretch1 := 60, charstretch2 := 62, charstretch3 := 64 }

/-- P_FLAGBIT's default (R121). -/
def defaultFlagBits : FlagBits :=
  { slave := 7, rotation := 4, pwminhibit := 3, free := 1, reverse := 0 }

/-- The configuration the reset state carries: the defaults of R8, the OPEN parameters left open. -/
def defaultParams : Params :=
  { drain := .loop
    subcodes := defaultSubcodes
    layout := defaultLayout
    flagBits := defaultFlagBits
    aliveEarlyExit := true
    startupWindow := Config.startupWindow
    readTimeout := Config.readTimeout }

end Sys2Proof.Machine
end

