-- ==== Sys2Proof/Machine/Operands.lean ====
section
/-!
DEFINITION. The operand domains the block checks before any bus activity (R108, R200, R342), the ranges of the
EEPROM fields (R270), and the placing of a checked operand into the bits of a frame (R90, R102, R103, R105).
-/

namespace Sys2Proof.Machine

/-- The id range, ID_MIN..ID_MAX (R8, R342 step 2). -/
def idInRange (id : Int) : Bool := decide (0 ≤ id) && decide (id ≤ 31)

/-- The commanded position range, POS_MIN..POS_MAX (R8, R181). -/
def posInRange (pos : Int) : Bool := decide (3500 ≤ pos) && decide (pos ≤ 11500)

/-- RANGE_PARAM (R200): the values WRITE_PARAM accepts for a kind; `none` for Eeprom, refused on this path
(R201). -/
def paramRange : ParamKind → Option (Int × Int)
  | .stretch => some (1, 127)
  | .speed => some (1, 127)
  | .current => some (1, 63)
  | .temperature => some (1, 127)
  | .eeprom => none

/-- A value in its kind's write range (R203). -/
def valueInRange (kind : ParamKind) (value : Int) : Bool :=
  match paramRange kind with
  | some (lo, hi) => decide (lo ≤ value) && decide (value ≤ hi)
  | none => false

/-- BAUD_SET (R8): the register value of a legal host rate, `none` for any other rate (R150, R151). -/
def baudReg (baud : Int) : Option BaudReg :=
  if baud = 115200 then some .b115200
  else if baud = 625000 then some .b625000
  else if baud = 1250000 then some .b1250000
  else none

/-- The rate a CFG_BAUD value stands for, in bits per second (R25). -/
def baudRate : BaudReg → Nat
  | .none => 0
  | .b115200 => 115200
  | .b625000 => 625000
  | .b1250000 => 1250000

/-- P_SUBCODE(kind) (R105, R200), 0x00 for Eeprom. -/
def subcode (c : Subcodes) : ParamKind → Byte
  | .eeprom => 0x00#8
  | .stretch => c.stretch
  | .speed => c.speed
  | .current => c.current
  | .temperature => c.temperature

/-- The parameter kind a sub-code byte selects, `none` for a reserved one (R105, R109). -/
def kindOfSubcode (c : Subcodes) (b : Byte) : Option ParamKind :=
  if b = 0x00#8 then some .eeprom
  else if b = c.stretch then some .stretch
  else if b = c.speed then some .speed
  else if b = c.current then some .current
  else if b = c.temperature then some .temperature
  else none

/-- A checked id in bits 4:0 of byte 0 (R102). -/
def idBits (id : Int) : BitVec 5 := BitVec.ofInt 5 id

/-- A position in the fourteen bits of format P (R103). -/
def posBits (pos : Int) : BitVec 14 := BitVec.ofInt 14 pos

/-- A checked value in bits 6:0 of byte 2 of format W (R106). -/
def valueBits (value : Int) : BitVec 7 := BitVec.ofInt 7 value

/-- P_RANGE (R270; notes/assumptions/20.md): the numbers a field may hold in a validation mode; the five flags take
any boolean. -/
def numInRange (mode : ValidationMode) (f : Field) (v : Int) : Bool :=
  let within (lo hi : Int) : Bool := decide (lo ≤ v) && decide (v ≤ hi)
  match f with
  | .stretch => within 1 127
  | .speed => within 1 127
  | .punch => within 0 255
  | .deadband => within 0 255
  | .dumping => within 0 255
  | .safetimer => within 0 255
  | .slave => true
  | .rotation => true
  | .pwminhibit => true
  | .free => true
  | .reverse => true
  | .poslimithigh => match mode with
    | .read => within 0 65535
    | .write => within 3500 11500
  | .poslimitlow => match mode with
    | .read => within 0 65535
    | .write => within 3500 11500
  | .commspeed => decide (v = 115200) || decide (v = 625000) || decide (v = 1250000)
  | .temperaturelimit => within 1 127
  | .currentlimit => within 1 63
  | .response => within 0 255
  | .offset => within (-127) 127
  | .id => within 0 31
  | .charstretch1 => within 1 127
  | .charstretch2 => within 1 127
  | .charstretch3 => within 1 127

/-- R270 for a field's value: a number in its range, or any boolean. -/
def valueOk (mode : ValidationMode) (f : Field) : FieldValue → Bool
  | .num v => numInRange mode f v
  | .flag _ => true

end Sys2Proof.Machine
end

