-- ==== Sys2Proof/Machine/Codec.lean ====
section
/-!
DEFINITION. The EEPROM codec (R230 to R268): the nibble code, group reads and writes on a frame given as its list
of bytes, the decoder and the encoder. Combinational: no state. Shifts and `|` act on unbounded numbers, as R9 and
R230 write them.
-/

namespace Sys2Proof.Machine

/-- `combine(a, b) = (a << 4) | b` (R230), unbounded. -/
def combine (a b : Byte) : Nat := (a.toNat <<< 4) ||| b.toNat

/-- `split(v) = (v >> 4, v & 0x0F)` (R231), for a logical byte. -/
def split (v : Nat) : Byte × Byte := (BitVec.ofNat 8 (v >>> 4), BitVec.ofNat 8 (v &&& 0x0F))

/-- `F[i]` of a frame. -/
def frameByte (frame : List Byte) (i : Nat) : Byte := frame.getD i 0x00#8

/-- The two-byte group at a frame offset: G8 (R232). -/
def get8 (frame : List Byte) (off : Nat) : Nat := combine (frameByte frame off) (frameByte frame (off + 1))

/-- The four-byte group at a frame offset: G16 (R232), the lower-indexed group high (R64, D7). -/
def get16 (frame : List Byte) (off : Nat) : Nat := (get8 frame off <<< 8) ||| get8 frame (off + 2)

/-- P8 (R233): a logical byte into the group at a frame offset. -/
def put8 (frame : List Byte) (off v : Nat) : List Byte :=
  (frame.set off (split v).1).set (off + 1) (split v).2

/-- P16 (R233): a 16-bit value into the group at a frame offset. -/
def put16 (frame : List Byte) (off v : Nat) : List Byte :=
  put8 (put8 frame off (v >>> 8)) (off + 2) (v &&& 0xFF)

/-- The value of a group (R232): G16 for the position limits, G8 for the rest. -/
def getGroup (l : Layout) (frame : List Byte) (g : Group) : Nat :=
  match g with
  | .poslimithigh => get16 frame l.poslimithigh
  | .poslimitlow => get16 frame l.poslimitlow
  | g => get8 frame (l.off g)

/-- Writing a group (R233): P16 for the position limits, P8 for the rest. -/
def putGroup (l : Layout) (frame : List Byte) (g : Group) (v : Nat) : List Byte :=
  match g with
  | .poslimithigh => put16 frame l.poslimithigh v
  | .poslimitlow => put16 frame l.poslimitlow v
  | g => put8 frame (l.off g) v

/-! ## Decode -/

/-- The commspeed table (R248), NotChanged for an unknown code. -/
def decodeCommspeed (c : Nat) : Option Int :=
  if c = 0x00 then some 1250000
  else if c = 0x01 then some 625000
  else if c = 0x0A then some 115200
  else none

/-- The offset's sign convention (R252): bits 6:0 complemented and incremented when bit 7 is set, negated
otherwise. -/
def decodeOffset (r : Nat) : Int :=
  if r.testBit 7 then (((r &&& 0x7F) ^^^ 0x7F : Nat) : Int) + 1 else 0 - (r : Int)

/-- `decode(F)` (R234 to R256): total; reads the field groups only. -/
def decodeRecord (l : Layout) (b : FlagBits) (frame : List Byte) : EepromRecord :=
  let g8 (g : Group) : Int := (getGroup l frame g : Nat)
  let half (g : Group) : Int := (getGroup l frame g / 2 : Nat)
  let flag (bit : Nat) : Bool := (getGroup l frame .flags).testBit bit
  { stretch := some (half .stretch)
    speed := some (g8 .speed)
    punch := some (g8 .punch)
    deadband := some (g8 .deadband)
    dumping := some (g8 .dumping)
    safetimer := some (g8 .safetimer)
    slave := some (flag b.slave)
    rotation := some (flag b.rotation)
    pwminhibit := some (flag b.pwminhibit)
    free := some (flag b.free)
    reverse := some (flag b.reverse)
    poslimithigh := some (g8 .poslimithigh)
    poslimitlow := some (g8 .poslimitlow)
    commspeed := decodeCommspeed (getGroup l frame .commspeed)
    temperaturelimit := some (g8 .temperaturelimit)
    currentlimit := some (g8 .currentlimit)
    response := some (g8 .response)
    offset := some (decodeOffset (getGroup l frame .offset))
    id := some (g8 .id)
    charstretch1 := some (half .charstretch1)
    charstretch2 := some (half .charstretch2)
    charstretch3 := some (half .charstretch3) }

/-! ## Encode -/

/-- `enc_f(v) = v` (R261, R266; notes/assumptions/21.md). -/
def encodePlain (v : Int) : Nat := v.toNat

/-- `enc_f(v) = 2 * v` (R262). -/
def encodeDoubled (v : Int) : Nat := (2 * v).toNat

/-- `enc_offset(v) = (0 - v) & 0xFF` (R263). -/
def encodeOffset (v : Int) : Nat := ((0 - v) % 256).toNat

/-- `enc_commspeed` (R264); no code outside the three rates, which WRITE validation admits alone (R260). -/
def encodeCommspeed (v : Int) : Option Nat :=
  if v = 1250000 then some 0x00
  else if v = 625000 then some 0x01
  else if v = 115200 then some 0x0A
  else none

/-- `FL[bit] <- b` where the record requests the flag (R265). -/
def setFlag (bit : Nat) (request : Option Bool) (fl : BitVec 8) : BitVec 8 :=
  match request with
  | some true => fl ||| (1#8 <<< bit)
  | some false => fl &&& ~~~(1#8 <<< bit)
  | none => fl

/-- The flags byte a record asks for over a baseline (R265), `none` when it requests none of the four writable
flags. `free` is read by no rule of the encoder (R267). -/
def encodeFlags (b : FlagBits) (r : EepromRecord) (baseFlags : Nat) : Option Nat :=
  if r.slave.isSome || r.rotation.isSome || r.pwminhibit.isSome || r.reverse.isSome then
    some (setFlag b.reverse r.reverse (setFlag b.pwminhibit r.pwminhibit
      (setFlag b.rotation r.rotation (setFlag b.slave r.slave (BitVec.ofNat 8 baseFlags))))).toNat
  else none

/-- The value the encoder writes into a group (R260 to R267), `none` where the group keeps the baseline's bytes. -/
def groupValue (l : Layout) (b : FlagBits) (r : EepromRecord) (base : List Byte) : Group → Option Nat
  | .stretch => r.stretch.map encodeDoubled
  | .speed => r.speed.map encodePlain
  | .punch => r.punch.map encodePlain
  | .deadband => r.deadband.map encodePlain
  | .dumping => r.dumping.map encodePlain
  | .safetimer => r.safetimer.map encodePlain
  | .flags => encodeFlags b r (getGroup l base .flags)
  | .poslimithigh => r.poslimithigh.map encodePlain
  | .poslimitlow => r.poslimitlow.map encodePlain
  | .commspeed => r.commspeed.bind encodeCommspeed
  | .temperaturelimit => r.temperaturelimit.map encodePlain
  | .currentlimit => r.currentlimit.map encodePlain
  | .response => r.response.map encodePlain
  | .offset => r.offset.map encodeOffset
  | .id => r.id.map encodePlain
  | .charstretch1 => r.charstretch1.map encodeDoubled
  | .charstretch2 => r.charstretch2.map encodeDoubled
  | .charstretch3 => r.charstretch3.map encodeDoubled

/-- One turn of the encoder's loop (R260): the group is written where the record asks for it. -/
def encodeGroup (l : Layout) (b : FlagBits) (r : EepromRecord) (base frame : List Byte) (g : Group) : List Byte :=
  match groupValue l b r base g with
  | some v => putGroup l frame g v
  | none => frame

/-- The forced header bytes of an EEPROM write frame (R260, D34). -/
def writeHeader (base : List Byte) (id : Int) : List Byte :=
  (base.set 0 (0b110#3 ++ idBits id)).set 1 0x00#8

/-- `encode(rec, base, id)` (R260). -/
def encodeRecord (l : Layout) (b : FlagBits) (r : EepromRecord) (base : List Byte) (id : Int) : List Byte :=
  Group.all.foldl (encodeGroup l b r base) (writeHeader base id)

end Sys2Proof.Machine
end

