-- ==== Sys2Proof/Machine/Flags.lean ====
section
/-!
DEFINITION. What decides a result code or a result bit: the numeric code of RET (R30), the response checks (R100),
and field validation with INVALID_MASK (R270, R271).
-/

namespace Sys2Proof.Machine

/-- RET's numeric value (R30). -/
def retValue : RetCode → Int
  | .none => 0
  | .ok => 1
  | .readError => -1
  | .writeError => -2
  | .idMismatch => -3
  | .invalidOption => -4
  | .returnDataWrong => -5
  | .eepromDataWrong => -6

/-- RET as the signed 8-bit register holds it (R30). -/
def retBits (c : RetCode) : BitVec 8 := BitVec.ofInt 8 (retValue c)

/-- `check_hdr` (R100): byte 0 of a response against its expected value under a mask; a wrong id is told from a
wrong kind. -/
def checkHdr (b expect mask : Byte) : Except RetCode Unit :=
  if b &&& mask = expect then .ok ()
  else if b &&& 0x1F#8 ≠ expect &&& 0x1F#8 then .error .idMismatch
  else .error .returnDataWrong

/-- `check_sc` (R100). -/
def checkSc (b sc : Byte) : Except RetCode Unit :=
  if b = sc then .ok () else .error .returnDataWrong

/-- `check_marker` (R100): the 0x5A marker of an EEPROM block. -/
def checkMarker (a b : Byte) : Except RetCode Unit :=
  if combine a b = 0x5A then .ok () else .error .eepromDataWrong

/-- `check_id_kind` (R100). -/
def checkIdKind (b : Byte) : Except RetCode Unit :=
  if b >>> 5 = 0b111#8 then .ok () else .error .returnDataWrong

/-- `check_id_echo` (R100). -/
def checkIdEcho (b : Byte) (id : Int) : Except RetCode Unit :=
  if ((b &&& 0x1F#8).toNat : Int) = id then .ok () else .error .idMismatch

/-- A present field outside its range (R271); a `NotChanged` field never is. -/
def fieldInvalid (mode : ValidationMode) (r : EepromRecord) (f : Field) : Bool :=
  match r.get f with
  | some v => !valueOk mode f v
  | none => false

/-- INVALID_MASK of a record (R271, R35): bit i set when field i is out of range, every field checked (R273). -/
def invalidMask (mode : ValidationMode) (r : EepromRecord) : BitVec 22 :=
  Field.all.foldl (fun m f => if fieldInvalid mode r f then m ||| (1#22 <<< f.index) else m) 0

/-- `validate(rec, mode)`'s verdict (R271). -/
def recordOk (mode : ValidationMode) (r : EepromRecord) : Bool := decide (invalidMask mode r = 0)

end Sys2Proof.Machine
end

