-- ==== Sys2Proof/Syntax.lean ====
section
/-!
DEFINITION. The instruction set: the host operations of the command port (R3, R40, R112), one constructor per row
of spec/opcode_table.json. Operands are unbounded integers, so that an out-of-domain argument reaches the block's
own checks (R40, D30).
-/

namespace Sys2Proof

/-- The operations a host can request (R112). -/
inductive Instr where
  /-- INIT baud, modesel (R150). -/
  | init (baud : Int) (modesel : Bool)
  /-- SET_BAUD baud (R151). -/
  | setBaud (baud : Int)
  /-- SET_POS id, pos (R181). -/
  | setPos (id pos : Int)
  /-- SET_POS_WEAK id (R182). -/
  | setPosWeak (id : Int)
  /-- SET_POS_WEAK_KEEP id (R183). -/
  | setPosWeakKeep (id : Int)
  /-- READ_PARAM id, kind (R202). -/
  | readParam (id : Int) (kind : ParamKind)
  /-- WRITE_PARAM id, kind, value (R203). -/
  | writeParam (id : Int) (kind : ParamKind) (value : Int)
  /-- READ_STRETCH id (R204). -/
  | readStretch (id : Int)
  /-- WRITE_STRETCH id, value (R208). -/
  | writeStretch (id value : Int)
  /-- READ_SPEED id (R205). -/
  | readSpeed (id : Int)
  /-- WRITE_SPEED id, value (R209). -/
  | writeSpeed (id value : Int)
  /-- READ_CURRENT id (R206). -/
  | readCurrent (id : Int)
  /-- WRITE_CURRENT id, value (R210). -/
  | writeCurrent (id value : Int)
  /-- READ_TEMPERATURE id (R207). -/
  | readTemperature (id : Int)
  /-- WRITE_TEMPERATURE id, value (R211). -/
  | writeTemperature (id value : Int)
  /-- READ_EEPROM id (R291). -/
  | readEeprom (id : Int)
  /-- READ_EEPROM_RAW id (R292). -/
  | readEepromRaw (id : Int)
  /-- WRITE_EEPROM id, record (R293). -/
  | writeEeprom (id : Int) (record : EepromRecord)
  /-- IS_SERVO_ALIVE id (R322). -/
  | isServoAlive (id : Int)
  /-- GET_ID (R320). -/
  | getId
  /-- SET_ID id (R321). -/
  | setId (id : Int)
deriving DecidableEq, Repr

end Sys2Proof
end

