-- ==== Sys2Proof/WellFormed.lean ====
section
/-!
DEFINITION. Well-formed requests: every operand inside the domain the block admits (R108, R342). A request outside
it is still a request: the block answers it with InvalidOption or EepromDataWrong before any bus activity.
-/

namespace Sys2Proof

open Machine

/-- The operand checks of R108 and, for WRITE_EEPROM, the WRITE validation of the record (R293). -/
def Instr.wellFormed : Instr → Bool
  | .init baud _ => (baudReg baud).isSome
  | .setBaud baud => (baudReg baud).isSome
  | .setPos id pos => idInRange id && posInRange pos
  | .setPosWeak id => idInRange id
  | .setPosWeakKeep id => idInRange id
  | .readParam id kind => idInRange id && decide (kind ≠ .eeprom)
  | .writeParam id kind value => idInRange id && valueInRange kind value
  | .readStretch id => idInRange id
  | .writeStretch id value => idInRange id && valueInRange .stretch value
  | .readSpeed id => idInRange id
  | .writeSpeed id value => idInRange id && valueInRange .speed value
  | .readCurrent id => idInRange id
  | .writeCurrent id value => idInRange id && valueInRange .current value
  | .readTemperature id => idInRange id
  | .writeTemperature id value => idInRange id && valueInRange .temperature value
  | .readEeprom id => idInRange id
  | .readEepromRaw id => idInRange id
  | .writeEeprom id record => idInRange id && recordOk .write record
  | .isServoAlive id => idInRange id
  | .getId => true
  | .setId id => idInRange id

end Sys2Proof
end

