-- ==== Sys2Proof/Decode.lean ====
section
/-!
DEFINITION. Command frames (R90 to R99): the seven formats, the decoder of a bus monitor (R107), total on any bytes
and rejecting by name (R109), the encoder, and the operation a frame stands for. The block itself never decodes a
frame (R107): it builds frames with the encoder here. Several operations share a frame (R113, R322), so a frame
stands for one of them, named in notes/assumptions/3.md.
-/

namespace Sys2Proof

open Machine

/-- A command frame by format: P, R, W, ER, EW, IR, IW (R92 to R99). -/
inductive Frame where
  | position (id : BitVec 5) (pos : BitVec 14)
  | readParam (id : BitVec 5) (sc : Byte)
  | writeParam (id : BitVec 5) (sc : Byte) (value : BitVec 7)
  | readEeprom (id : BitVec 5)
  | writeEeprom (id : BitVec 5) (payload : List Byte)
  | readId
  | writeId (id : BitVec 5)
deriving DecidableEq, Repr

/-- Why bytes are no command frame of the block (R109). -/
inductive DecodeError where
  /-- The bytes end inside a frame. -/
  | truncated
  /-- Byte 0 below 0x80. -/
  | reservedByte0
  /-- Bit 7 of a position byte is set (R92). -/
  | reservedPositionBit
  /-- Bit 7 of a parameter value is set (R95, R106). -/
  | reservedValueBit
  /-- A sub-code no parameter kind has (R109). -/
  | reservedSubcode
  /-- An ID frame whose bytes 1..3 are neither the read's nor the write's, or a read with byte 0 other than 0xFF. -/
  | reservedIdFrame
deriving DecidableEq, Repr

/-- What a frame's fields must be beyond their widths: a parameter frame's sub-code is not the EEPROM one (R107),
an EEPROM write carries 64 bytes after its header (R97). -/
def Frame.wellFormed : Frame → Bool
  | .readParam _ sc => decide (sc ≠ 0x00#8)
  | .writeParam _ sc _ => decide (sc ≠ 0x00#8)
  | .writeEeprom _ payload => decide (payload.length = 64)
  | _ => true

/-! ## The decoder -/

/-- Format P after byte 0 (R92). -/
def decodePosition (id : BitVec 5) : List Byte → Except DecodeError (Frame × List Byte)
  | b1 :: b2 :: rest =>
    if b1.getLsbD 7 || b2.getLsbD 7 then .error .reservedPositionBit
    else .ok (.position id (b1.extractLsb' 0 7 ++ b2.extractLsb' 0 7), rest)
  | _ => .error .truncated

/-- Formats R and ER after byte 0 (R94, R96): the sub-code tells them apart (R107). -/
def decodeRead (id : BitVec 5) : List Byte → Except DecodeError (Frame × List Byte)
  | b1 :: rest => if b1 = 0x00#8 then .ok (.readEeprom id, rest) else .ok (.readParam id b1, rest)
  | _ => .error .truncated

/-- Formats W and EW after byte 0 (R95, R97). -/
def decodeWrite (id : BitVec 5) : List Byte → Except DecodeError (Frame × List Byte)
  | b1 :: rest =>
    if b1 = 0x00#8 then
      if rest.length < 64 then .error .truncated
      else .ok (.writeEeprom id (rest.take 64), rest.drop 64)
    else match rest with
      | b2 :: rest =>
        if b2.getLsbD 7 then .error .reservedValueBit
        else .ok (.writeParam id b1 (b2.extractLsb' 0 7), rest)
      | [] => .error .truncated
  | _ => .error .truncated

/-- Formats IR and IW after byte 0 (R98, R99): bytes 1..3 tell them apart (R107). -/
def decodeId (id : BitVec 5) : List Byte → Except DecodeError (Frame × List Byte)
  | b1 :: b2 :: b3 :: rest =>
    if b1 = 0x00#8 ∧ b2 = 0x00#8 ∧ b3 = 0x00#8 ∧ id = 31#5 then .ok (.readId, rest)
    else if b1 = 0x01#8 ∧ b2 = 0x01#8 ∧ b3 = 0x01#8 then .ok (.writeId id, rest)
    else .error .reservedIdFrame
  | _ => .error .truncated

/-- The frame at the head of a byte list and the bytes after it (R90, R107). -/
def decodeFrame : List Byte → Except DecodeError (Frame × List Byte)
  | [] => .error .truncated
  | b0 :: rest =>
    let id : BitVec 5 := b0.extractLsb' 0 5
    let kind : BitVec 3 := b0.extractLsb' 5 3
    if kind = 0b100 then decodePosition id rest
    else if kind = 0b101 then decodeRead id rest
    else if kind = 0b110 then decodeWrite id rest
    else if kind = 0b111 then decodeId id rest
    else .error .reservedByte0

/-- READ_ and WRITE_ operations by their own mnemonics (R113), for the kinds the parameter path carries. -/
def readInstr (id : Int) : ParamKind → Option Instr
  | .eeprom => none
  | .stretch => some (.readStretch id)
  | .speed => some (.readSpeed id)
  | .current => some (.readCurrent id)
  | .temperature => some (.readTemperature id)

def writeInstr (id value : Int) : ParamKind → Option Instr
  | .eeprom => none
  | .stretch => some (.writeStretch id value)
  | .speed => some (.writeSpeed id value)
  | .current => some (.writeCurrent id value)
  | .temperature => some (.writeTemperature id value)

/-- The operation a frame stands for: the one with the frame as its only exchange where several share it
(notes/assumptions/3.md). An EEPROM write stands for the request of every field as the frame carries it. -/
def frameInstr (p : Params) : Frame → Except DecodeError Instr
  | .position id pos =>
    if pos = 0 then .ok (.setPosWeak (id.toNat : Int)) else .ok (.setPos (id.toNat : Int) (pos.toNat : Int))
  | .readParam id sc =>
    match (kindOfSubcode p.subcodes sc).bind (readInstr (id.toNat : Int)) with
    | some i => .ok i
    | none => .error .reservedSubcode
  | .writeParam id sc value =>
    match (kindOfSubcode p.subcodes sc).bind (writeInstr (id.toNat : Int) (value.toNat : Int)) with
    | some i => .ok i
    | none => .error .reservedSubcode
  | .readEeprom id => .ok (.readEeprom (id.toNat : Int))
  | .writeEeprom id payload =>
    .ok (.writeEeprom (id.toNat : Int) (decodeRecord p.layout p.flagBits (0x00#8 :: 0x00#8 :: payload)))
  | .readId => .ok .getId
  | .writeId id => .ok (.setId (id.toNat : Int))

/-- The operation at the head of a byte list. -/
def decodeInstr (p : Params) (bytes : List Byte) : Except DecodeError (Instr × List Byte) :=
  match decodeFrame bytes with
  | .ok (f, rest) =>
    match frameInstr p f with
    | .ok i => .ok (i, rest)
    | .error e => .error e
  | .error e => .error e

/-! ## The encoder -/

/-- The bytes of a frame, first on the wire first (R63, R92 to R99). -/
def encodeFrame : Frame → List Byte
  | .position id pos => [0b100#3 ++ id, 0#1 ++ pos.extractLsb' 7 7, 0#1 ++ pos.extractLsb' 0 7]
  | .readParam id sc => [0b101#3 ++ id, sc]
  | .writeParam id sc value => [0b110#3 ++ id, sc, 0#1 ++ value]
  | .readEeprom id => [0b101#3 ++ id, 0x00#8]
  | .writeEeprom id payload => (0b110#3 ++ id) :: 0x00#8 :: payload
  | .readId => [0xFF#8, 0x00#8, 0x00#8, 0x00#8]
  | .writeId id => [0b111#3 ++ id, 0x01#8, 0x01#8, 0x01#8]

/-- The frame that is an operation's encoding (R3): its command frame, for WRITE_EEPROM the write frame over a
66-byte baseline (opcode_table.json), none for INIT and SET_BAUD, which put no frame on the bus. -/
def instrFrame (p : Params) (base : List Byte) : Instr → Option Frame
  | .init _ _ => none
  | .setBaud _ => none
  | .setPos id pos => some (.position (idBits id) (posBits pos))
  | .setPosWeak id => some (.position (idBits id) 0)
  | .setPosWeakKeep id => some (.position (idBits id) 0)
  | .readParam id kind => some (.readParam (idBits id) (subcode p.subcodes kind))
  | .writeParam id kind value => some (.writeParam (idBits id) (subcode p.subcodes kind) (valueBits value))
  | .readStretch id => some (.readParam (idBits id) (subcode p.subcodes .stretch))
  | .writeStretch id value => some (.writeParam (idBits id) (subcode p.subcodes .stretch) (valueBits value))
  | .readSpeed id => some (.readParam (idBits id) (subcode p.subcodes .speed))
  | .writeSpeed id value => some (.writeParam (idBits id) (subcode p.subcodes .speed) (valueBits value))
  | .readCurrent id => some (.readParam (idBits id) (subcode p.subcodes .current))
  | .writeCurrent id value => some (.writeParam (idBits id) (subcode p.subcodes .current) (valueBits value))
  | .readTemperature id => some (.readParam (idBits id) (subcode p.subcodes .temperature))
  | .writeTemperature id value => some (.writeParam (idBits id) (subcode p.subcodes .temperature) (valueBits value))
  | .readEeprom id => some (.readEeprom (idBits id))
  | .readEepromRaw id => some (.readEeprom (idBits id))
  | .writeEeprom id record =>
    some (.writeEeprom (idBits id) ((encodeRecord p.layout p.flagBits record base id).drop 2))
  | .isServoAlive id => some (.readEeprom (idBits id))
  | .getId => some .readId
  | .setId id => some (.writeId (idBits id))

/-- The words of a well-formed operation; an ill-formed one has none: an out-of-range operand is never truncated
into a frame (R102). -/
def encode (p : Params) (base : List Byte) (i : Instr) : Option (List Byte) :=
  if i.wellFormed then (instrFrame p base i).map encodeFrame else none

/-! ## The opcode table's words -/

/-- The bytes of a table word: the table reads a frame's bytes as one big-endian number, byte 0 most significant
(its "match_over"); the bytes after it, up to the longest frame, are zero. -/
def tableBytes (nbits w : Nat) : List Byte :=
  (List.range (nbits / 8)).map (fun k => BitVec.ofNat 8 (w >>> (8 * (nbits / 8 - 1 - k)))) ++
    List.replicate (66 - nbits / 8) 0x00#8

/-- The operation the decoder reads from a table word, under the default configuration. -/
def decodeTableWord (nbits w : Nat) : Option Instr :=
  match decodeInstr defaultParams (tableBytes nbits w) with
  | .ok (i, _) => some i
  | .error _ => none

end Sys2Proof
end

