-- ==== Sys2Proof/Machine/State.lean ====
section
/-!
DEFINITION. The machine's state as plain data (R20 to R35), its reset (R380), and the closed sets of faults and
refusals. `Env` is the model's own: what stands outside the block, as far as its ports show it (R41, R42).
-/

namespace Sys2Proof.Machine

/-- A buffer's bytes: address and byte, addresses strictly rising, no listed byte equal to what an unlisted address
reads as, 0x00 (the reset contents of both buffers, R21, R22; notes/assumptions/10.md). -/
abbrev Memory := List Host.Cell

/-- The op operand of the command port (R40). -/
inductive OpCode where
  | init | setBaud | setPos | setPosWeak | setPosWeakKeep | readParam | writeParam
  | readEeprom | readEepromRaw | writeEeprom | isServoAlive | getId | setId
deriving DecidableEq, Repr

/-- A request on the command port (R40). An operand the operation does not use is 0, false, Eeprom or all
NotChanged. -/
structure Request where
  op      : OpCode
  id      : Int := 0
  kind    : ParamKind := .eeprom
  value   : Int := 0
  pos     : Int := 0
  record  : EepromRecord := {}
  baud    : Int := 0
  modesel : Bool := false
deriving DecidableEq, Repr

/-- The EXCHANGE micro-states (R26, R141). -/
inductive ExState where
  /-- EX_DIR_ON -/
  | dirOn
  /-- EX_WRITE -/
  | write
  /-- EX_DIR_OFF -/
  | dirOff
  /-- EX_ZERO_TX -/
  | zeroTx
  /-- EX_CHECK_W -/
  | checkW
  /-- EX_ZERO_RX -/
  | zeroRx
  /-- EX_DRAIN -/
  | drain
  /-- EX_READ -/
  | read
  /-- EX_CHECK_R -/
  | checkR
deriving DecidableEq, Repr

/-- Which exchange of its operation an exchange state belongs to: SET_POS_WEAK_KEEP and WRITE_EEPROM have two
(R183, R293). -/
inductive Turn where
  | first
  | second
deriving DecidableEq, Repr

/-- STATE (R26): IDLE, the EXCHANGE micro-states, and the operation states. A state several operations have stands
once; OP says whose it is. The spec names the states of the EEPROM service (R293, R296); the names of the other
operations' states are the model's (notes/assumptions/6.md). -/
inductive SeqState where
  /-- IDLE -/
  | idle
  /-- INIT: the rate check (R150). -/
  | initAdmit
  /-- INIT: `DIR <- 1`. -/
  | initDirOn
  /-- INIT: `Delay(P_STARTUP_WINDOW)`. -/
  | initDelay
  /-- INIT: `Bus.setBaud`. -/
  | initSetBaud
  /-- INIT: `Bus.setFraming`. -/
  | initSetFraming
  /-- INIT: `DIR <- 0`. -/
  | initDirOff
  /-- INIT: `CFG_BAUD`, `INIT_DONE`, completion. -/
  | initFinish
  /-- SET_BAUD: the rate check (R151). -/
  | baudAdmit
  /-- SET_BAUD: `Bus.setBaud`. -/
  | baudProgram
  /-- SET_BAUD: `CFG_BAUD`, completion. -/
  | baudFinish
  /-- R_ADMIT, RR_ADMIT, W_ADMIT and their like in every other bus operation: the operand checks (R342). -/
  | admission
  /-- W_VALIDATE (R293). -/
  | validateRecord
  /-- The command frame of an exchange into TXBUF, EX_N and EX_M; entry of W_READ (first) and W_WRITE (second). -/
  | build (t : Turn)
  /-- An EXCHANGE micro-state (R141). -/
  | exchange (t : Turn) (m : ExState)
  /-- The response checks after an exchange: ER_CHECK (first), W_RESP (second). -/
  | check (t : Turn)
  /-- R_DECODE, and the decode inside IS_SERVO_ALIVE. -/
  | decodeBlock
  /-- R_VALIDATE, and the validation inside IS_SERVO_ALIVE. -/
  | validateBlock
  /-- W_ENCODE -/
  | encodeBlock
  /-- IS_SERVO_ALIVE: `while ALIVE_I < 10` (R322). -/
  | probeLoop
  /-- IS_SERVO_ALIVE: `rec.id != Some id`. -/
  | probeCompare
  /-- IS_SERVO_ALIVE: `alive <- 0`, and the early exit. -/
  | probeFail
  /-- IS_SERVO_ALIVE: `ALIVE_I <- ALIVE_I + 1`. -/
  | probeNext
  /-- IS_SERVO_ALIVE: `OUT_ALIVE <- alive`, completion. -/
  | probeFinish
deriving DecidableEq, Repr

/-- The sequencer latches (R27), and three that the pseudocode's local variables need to live across states
(notes/assumptions/7.md). The default of each field is its cleared value (notes/assumptions/11.md). -/
structure Latches where
  /-- OP, `none` being NONE. -/
  op        : Option OpCode := none
  /-- OPID -/
  opId      : Int := 0
  /-- OPKIND -/
  opKind    : ParamKind := .eeprom
  /-- OPVAL -/
  opVal     : Int := 0
  /-- OPPOS -/
  opPos     : Int := 0
  /-- OPREC -/
  opRec     : EepromRecord := {}
  /-- OPBAUD -/
  opBaud    : Int := 0
  /-- OPMODESEL -/
  opModesel : Bool := false
  /-- EX_N -/
  exN       : BitVec 7 := 0
  /-- EX_M -/
  exM       : BitVec 7 := 0
  /-- EX_W -/
  exW       : BitVec 7 := 0
  /-- EX_R -/
  exR       : BitVec 7 := 0
  /-- EX_RET -/
  exRet     : RetCode := .none
  /-- KEEP_POS -/
  keepPos   : BitVec 16 := 0
  /-- ALIVE_I -/
  aliveI    : BitVec 4 := 0
  /-- The local `rec` of R291 and R322: the record decoded from RXBUF. -/
  record    : EepromRecord := {}
  /-- The local `alive` of R322. -/
  alive     : Bool := false
  /-- Whether this operation has validated a record: what R343 and R344 ask before clearing INVALID_MASK. -/
  validated : Bool := false
deriving DecidableEq, Repr

/-- The result registers (R30 to R35). -/
structure Results where
  /-- RET -/
  ret         : RetCode := .none
  /-- OUT_VALUE -/
  outValue    : BitVec 16 := 0
  /-- OUT_ALIVE -/
  outAlive    : Bool := false
  /-- OUT_REC -/
  outRec      : EepromRecord := {}
  /-- INVALID_MASK -/
  invalidMask : BitVec 22 := 0
deriving DecidableEq, Repr

/-- The parity setting of `Bus.setFraming` (R41, R152). -/
inductive Parity where
  | even
deriving DecidableEq, Repr

/-- An action on an external port (R41), with the transport's answer where the primitive has one. -/
inductive PortAction where
  /-- `DIR <- v` -/
  | dir (v : Bool)
  /-- `Delay(d)` -/
  | delay (d : Nat)
  /-- `Bus.setBaud(rate)` -/
  | setBaud (rate : Nat)
  /-- `Bus.setFraming(bits, parity, stop)` -/
  | setFraming (bits : Nat) (parity : Parity) (stop : Nat)
  /-- `Bus.write(list) -> w` -/
  | write (bytes : List Byte) (w : Nat)
  /-- `Bus.avail() -> k` -/
  | avail (k : Nat)
  /-- `Bus.read(n) -> (r, list)`, r being the list's length -/
  | read (n : Nat) (bytes : List Byte)
deriving DecidableEq, Repr

/-- The outside of the block, the model's own (R42; notes/assumptions/2.md): what the host will request, what the
transport will answer to each primitive, oldest first, when a reset comes, and the port actions made so far, oldest
first. `Bus.read` and `Delay` are the waits (R28): the block waits for an answer of theirs that is not there yet.
`Bus.write` and `Bus.avail` answer at once, with a free value where none is listed (notes/assumptions/22.md). -/
structure Env where
  /-- Requests the host presents, one at each IDLE (R40, R347). -/
  requests : List Instr := []
  /-- Answers w of `Bus.write`. -/
  writes   : List Nat := []
  /-- Answers k of `Bus.avail`. -/
  avails   : List Nat := []
  /-- Answers of `Bus.read`: the bytes returned. -/
  reads    : List (List Byte) := []
  /-- How many waits of `Delay` have come to their end and are not yet taken. -/
  delays   : Nat := 0
  /-- Whether the block is reset at the next step, at the one after it, and so on (R382); not, where none is
  listed. -/
  resets   : List Bool := []
  /-- How many free values `Bus.write` and `Bus.avail` have answered. -/
  draws    : Nat := 0
  /-- The port actions so far. -/
  trace    : List PortAction := []
deriving DecidableEq, Repr

/-- The state of the machine: what R20 lists, the parameters (R8) and the outside. -/
structure State where
  /-- TXBUF (R21) -/
  txbuf    : Memory
  /-- RXBUF (R22) -/
  rxbuf    : Memory
  /-- DIR (R24), true being 1, transmit -/
  dir      : Bool
  /-- CFG_BAUD (R25) -/
  cfgBaud  : BaudReg
  /-- CFG_DRAIN (R25) -/
  cfgDrain : Drain
  /-- INIT_DONE (R25) -/
  initDone : Bool
  /-- STATE (R26) -/
  seq      : SeqState
  /-- The latches (R27) -/
  latch    : Latches
  /-- The result registers (R30 to R35) -/
  res      : Results
  /-- The implementation parameters (R8), which nothing writes -/
  params   : Params
  /-- The outside of the block -/
  env      : Env
deriving DecidableEq, Repr

/-- BUSY (R29): a view of STATE, not a store. -/
def State.busy (s : State) : Bool := decide (s.seq ≠ .idle)

/-- Why the machine stops with a fault. The spec's own failures are result codes (R340) and are no faults here. -/
inductive Fault where
  /-- Raised by EX_WRITE and EX_READ when EX_N or EX_M is outside 1..66, an access outside TXBUF or RXBUF, where no
  byte exists (R21, R22, R140). Safe: no operation sets such a length, so no run from reset reaches it
  (notes/assumptions/17.md). -/
  | bufferRange
deriving DecidableEq, Repr

/-- Why the machine gives an instruction no meaning. -/
inductive Refusal where
  /-- An arm of exec that has no meaning yet. Safe. No arm of this model raises it. -/
  | notModelled (mnemonic : String)
  /-- Raised by every operation but INIT when requested before the first successful INIT: "the block gives it no
  meaning" (R342 step 1, D23; notes/assumptions/9.md). Safe. -/
  | notInitialised
deriving DecidableEq, Repr

/-- The reset state under a configuration, beside an outside the reset does not touch (R380, R382): CFG_DRAIN takes
P_DRAIN. -/
def State.afterReset (p : Params) (e : Env) : State :=
  { txbuf := []
    rxbuf := []
    dir := false
    cfgBaud := .none
    cfgDrain := p.drain
    initDone := false
    seq := .idle
    latch := {}
    res := {}
    params := p
    env := e }

/-- The machine right after reset (R380): nothing requested, nothing answered, nothing sent. -/
def State.reset : State := State.afterReset defaultParams {}

end Sys2Proof.Machine
end

