-- ==== Sys2Proof/Machine/Ops.lean ====
section
/-!
DEFINITION. The named operations the sequencer's actions are made of: the buffers (R10, R21, R22), the ports (R41),
accepting a request (R26, R27), completing an operation (R343), and `raise Fail(c)` (R344), the block's one failure
mechanism, which stands where other machines take an exception (R340). A reset in mid-operation is here too (R382).
-/

namespace Sys2Proof.Machine

/-! ## Buffers -/

/-- BUF_LEN (R8). -/
def bufLen : Nat := 66

/-- A byte of a buffer; an unlisted address reads 0x00 (R21, R22). -/
def memRead : Memory → Nat → Byte
  | [], _ => 0x00#8
  | (k, b) :: m, a => if a = k then b else memRead m a

/-- A byte into a buffer, keeping the canonical form. -/
def memWrite : Memory → Nat → Byte → Memory
  | [], a, v => if v = 0x00#8 then [] else [(a, v)]
  | (k, b) :: m, a, v =>
    if a < k then (if v = 0x00#8 then (k, b) :: m else (a, v) :: (k, b) :: m)
    else if a = k then (if v = 0x00#8 then m else (a, v) :: m)
    else (k, b) :: memWrite m a v

/-- `MemWrite` (R10): consecutive bytes from an address. -/
def memWriteList : Memory → Nat → List Byte → Memory
  | m, _, [] => m
  | m, a, b :: bs => memWriteList (memWrite m a b) (a + 1) bs

/-- `MemRead` (R10): n consecutive bytes from an address. -/
def memReadList (m : Memory) : Nat → Nat → List Byte
  | _, 0 => []
  | a, n + 1 => memRead m a :: memReadList m (a + 1) n

/-- The buffer cleared to zero: nothing listed. -/
def memZero : Memory := []

/-- The canonical form from an address on: addresses strictly rising and inside the buffer, no byte equal to
0x00. -/
def memWfFrom : Nat → Memory → Bool
  | _, [] => true
  | lo, (k, b) :: m => decide (lo ≤ k) && decide (k < bufLen) && decide (b ≠ 0x00#8) && memWfFrom (k + 1) m

/-- The canonical form of a buffer. -/
def Memory.wf (m : Memory) : Bool := memWfFrom 0 m

/-- `RXBUF[i]`. -/
def rx (s : State) (i : Nat) : Byte := memRead s.rxbuf i

/-- `RXBUF[0..65]`, the block the decoder and the encoder read. -/
def rxBlock (s : State) : List Byte := memReadList s.rxbuf 0 bufLen

/-! ## Ports -/

/-- A port action, recorded in the order it is made (R72). -/
def emit (a : PortAction) (s : State) : State :=
  { s with env := { s.env with trace := s.env.trace ++ [a] } }

/-- `DIR <- v` (R24, R41). -/
def driveDir (v : Bool) (s : State) : State := emit (.dir v) { s with dir := v }

/-- The answer of `Bus.write` and the outside after it: the next one listed, or a free value (R41;
notes/assumptions/22.md). -/
def takeWrite (e : Env) : Nat × Env :=
  match e.writes with
  | w :: ws => (w, { e with writes := ws })
  | [] => (Config.freeWritten e.draws, { e with draws := e.draws + 1 })

/-- The answer of `Bus.avail` and the outside after it: the next one listed, or a free value (R41;
notes/assumptions/22.md). -/
def takeAvail (e : Env) : Nat × Env :=
  match e.avails with
  | k :: ks => (k, { e with avails := ks })
  | [] => (Config.freeAvail e.draws, { e with draws := e.draws + 1 })

/-! ## The sequencer -/

/-- `state <- S` (R11). -/
def goto (q : SeqState) (s : State) : State := { s with seq := q }

/-- An operation as the command port's tuple (R40): the READ_ and WRITE_ mnemonics are READ_PARAM and WRITE_PARAM of
their kind (R113). -/
def requestOf : Instr → Request
  | .init baud modesel => { op := .init, baud := baud, modesel := modesel }
  | .setBaud baud => { op := .setBaud, baud := baud }
  | .setPos id pos => { op := .setPos, id := id, pos := pos }
  | .setPosWeak id => { op := .setPosWeak, id := id }
  | .setPosWeakKeep id => { op := .setPosWeakKeep, id := id }
  | .readParam id kind => { op := .readParam, id := id, kind := kind }
  | .writeParam id kind value => { op := .writeParam, id := id, kind := kind, value := value }
  | .readStretch id => { op := .readParam, id := id, kind := .stretch }
  | .writeStretch id value => { op := .writeParam, id := id, kind := .stretch, value := value }
  | .readSpeed id => { op := .readParam, id := id, kind := .speed }
  | .writeSpeed id value => { op := .writeParam, id := id, kind := .speed, value := value }
  | .readCurrent id => { op := .readParam, id := id, kind := .current }
  | .writeCurrent id value => { op := .writeParam, id := id, kind := .current, value := value }
  | .readTemperature id => { op := .readParam, id := id, kind := .temperature }
  | .writeTemperature id value => { op := .writeParam, id := id, kind := .temperature, value := value }
  | .readEeprom id => { op := .readEeprom, id := id }
  | .readEepromRaw id => { op := .readEepromRaw, id := id }
  | .writeEeprom id record => { op := .writeEeprom, id := id, record := record }
  | .isServoAlive id => { op := .isServoAlive, id := id }
  | .getId => { op := .getId }
  | .setId id => { op := .setId, id := id }

/-- The operation a request asks for. -/
def instrOf (r : Request) : Instr :=
  match r.op with
  | .init => .init r.baud r.modesel
  | .setBaud => .setBaud r.baud
  | .setPos => .setPos r.id r.pos
  | .setPosWeak => .setPosWeak r.id
  | .setPosWeakKeep => .setPosWeakKeep r.id
  | .readParam => .readParam r.id r.kind
  | .writeParam => .writeParam r.id r.kind r.value
  | .readEeprom => .readEeprom r.id
  | .readEepromRaw => .readEepromRaw r.id
  | .writeEeprom => .writeEeprom r.id r.record
  | .isServoAlive => .isServoAlive r.id
  | .getId => .getId
  | .setId => .setId r.id

/-- The request the latches OP.. OPMODESEL hold (R27), `none` when OP is NONE. -/
def latchedRequest (s : State) : Option Request :=
  s.latch.op.map fun op =>
    { op := op, id := s.latch.opId, kind := s.latch.opKind, value := s.latch.opVal, pos := s.latch.opPos
      record := s.latch.opRec, baud := s.latch.opBaud, modesel := s.latch.opModesel }

/-- The operation in progress. -/
def latchedInstr (s : State) : Option Instr := (latchedRequest s).map instrOf

/-- The latches at the start of an operation (R27): cleared, and the request in OP.. OPMODESEL. -/
def latchesFor (r : Request) : Latches :=
  { op := some r.op, opId := r.id, opKind := r.kind, opVal := r.value, opPos := r.pos, opRec := r.record
    opBaud := r.baud, opModesel := r.modesel }

/-- The first state of an operation. -/
def entryState : OpCode → SeqState
  | .init => .initAdmit
  | .setBaud => .baudAdmit
  | _ => .admission

/-- IDLE accepts a request (R26). -/
def accept (r : Request) (s : State) : State :=
  { s with latch := latchesFor r, seq := entryState r.op }

/-- The request at the head of the command port taken off it. -/
def takeRequest (s : State) : State := { s with env := { s.env with requests := s.env.requests.tail } }

/-- The outside's word on a reset at this step taken. -/
def takeReset (s : State) : State := { s with env := { s.env with resets := s.env.resets.tail } }

/-- INVALID_MASK at the end of an operation (R343, R344): what its validation wrote, or 0 if it ran none. -/
def finalMask (s : State) : BitVec 22 := if s.latch.validated then s.res.invalidMask else 0

/-- Successful completion (R343): RET Ok, the operation's own value registers, every other one cleared, IDLE. -/
def complete (value : BitVec 16) (alive : Bool) (record : EepromRecord) (s : State) : State :=
  { s with
    res := { ret := .ok, outValue := value, outAlive := alive, outRec := record, invalidMask := finalMask s }
    seq := .idle }

/-- Completion of an operation that names no value register. -/
def completePlain (s : State) : State := complete 0 false {} s

/-- `raise Fail(c)` (R344): RET, the value registers cleared, the buffers and DIR as they are, IDLE. -/
def raiseFail (c : RetCode) (s : State) : State :=
  { s with
    res := { ret := c, outValue := 0, outAlive := false, outRec := {}, invalidMask := finalMask s }
    seq := .idle }

/-- A check that may raise Fail, and what follows when it passes. -/
def checked {α : Type} (r : Except RetCode α) (next : α → State → State) (s : State) : State :=
  match r with
  | .ok a => next a s
  | .error c => raiseFail c s

/-- `validate(rec, mode)` (R271): INVALID_MASK is written whatever the verdict. -/
def validate (mode : ValidationMode) (r : EepromRecord) (s : State) : State :=
  { s with
    res := { s.res with invalidMask := invalidMask mode r }
    latch := { s.latch with validated := true } }

/-- A reset at any point (R382): every state of the block at its reset value, the operation abandoned with no
result; the configuration stays, and so does the outside (notes/assumptions/12.md). -/
def resetBlock (s : State) : State := State.afterReset s.params s.env

end Sys2Proof.Machine
end

