-- ==== Sys2Proof/Machine/Exchange.lean ====
section
/-!
DEFINITION. The transceiver: EXCHANGE as its nine sequencer states (R140 to R144), and the driver that runs an
operation's states in order: one of them for a step of the machine (R28), all of them, until the block is IDLE or
waits, for the meaning of an operation.
-/

namespace Sys2Proof.Machine

/-- What one sequencer state does (R28): move on, wait for an answer of the transport that is not there yet, or
stop. -/
inductive Micro where
  | next (s : State)
  | wait
  | fault (f : Fault)
deriving DecidableEq, Repr

/-- A length EXCHANGE may be called with (R140): 1..66. -/
def exLength (n : BitVec 7) : Bool := decide (1 ≤ n.toNat) && decide (n.toNat ≤ bufLen)

/-- Calling EXCHANGE with the command already in TXBUF: EX_N, EX_M, EX_DIR_ON. -/
def callExchange (t : Turn) (n m : Nat) (s : State) : State :=
  { s with
    latch := { s.latch with exN := BitVec.ofNat 7 n, exM := BitVec.ofNat 7 m }
    seq := .exchange t .dirOn }

/-- A command frame into TXBUF, and EXCHANGE (the frame's length is EX_N, R101). -/
def sendFrame (t : Turn) (f : Frame) (m : Nat) (s : State) : State :=
  callExchange t (encodeFrame f).length m { s with txbuf := memWriteList s.txbuf 0 (encodeFrame f) }

/-- EX_WRITE (R141 E2): the transport takes w of the EX_N bytes of TXBUF, 0 ≤ w ≤ EX_N (R41;
notes/assumptions/8.md). -/
def exWrite (t : Turn) (s : State) : Micro :=
  if exLength s.latch.exN then
    let w := min (takeWrite s.env).1 s.latch.exN.toNat
    .next (goto (.exchange t .dirOff)
      (emit (.write (memReadList s.txbuf 0 s.latch.exN.toNat) w)
        { s with
          latch := { s.latch with exW := BitVec.ofNat 7 w }
          env := (takeWrite s.env).2 }))
  else .fault .bufferRange

/-- EX_CHECK_W (R141 E5): a short write zeroes RXBUF too (C2) and returns WriteError. -/
def exCheckW (t : Turn) (s : State) : State :=
  if s.latch.exW ≠ s.latch.exN then
    goto (.check t) { s with rxbuf := memZero, latch := { s.latch with exRet := .writeError } }
  else goto (.exchange t .zeroRx) s

/-- EX_DRAIN (R141 E7, R142): one turn of the loop. Nothing pending, or CFG_DRAIN = OFF, goes on to the read; k
pending bytes are read and stored nowhere (R23), and the loop stays (R387); the turn waits for that read alone (R28;
notes/assumptions/14.md). -/
def exDrain (t : Turn) (s : State) : Micro :=
  match s.cfgDrain with
  | .off => .next (goto (.exchange t .read) s)
  | .loop =>
    let k := (takeAvail s.env).1
    if k = 0 then .next (goto (.exchange t .read) (emit (.avail 0) { s with env := (takeAvail s.env).2 }))
    else match s.env.reads with
      | [] => .wait
      | bytes :: rs =>
        .next (emit (.read k (bytes.take k)) (emit (.avail k)
          { s with env := { (takeAvail s.env).2 with reads := rs } }))

/-- EX_READ (R141 E8): the transport returns r ≤ EX_M bytes (R41), stored from RXBUF[0] on. -/
def exRead (t : Turn) (s : State) : Micro :=
  if exLength s.latch.exM then
    match s.env.reads with
    | [] => .wait
    | bytes :: rs =>
      let bytes := bytes.take s.latch.exM.toNat
      .next (goto (.exchange t .checkR)
        (emit (.read s.latch.exM.toNat bytes)
          { s with
            rxbuf := memWriteList s.rxbuf 0 bytes
            latch := { s.latch with exR := BitVec.ofNat 7 bytes.length }
            env := { s.env with reads := rs } }))
  else .fault .bufferRange

/-- EX_CHECK_R (R141 E9): a short read zeroes RXBUF (C3) and returns ReadError; otherwise the EXCHANGE is Ok. -/
def exCheckR (t : Turn) (s : State) : State :=
  if s.latch.exR ≠ s.latch.exM then
    goto (.check t) { s with rxbuf := memZero, latch := { s.latch with exRet := .readError } }
  else goto (.check t) { s with latch := { s.latch with exRet := .ok } }

/-- One EXCHANGE state (R141), each moving to the next in the order of R141. -/
def exchangeStep (t : Turn) (m : ExState) (s : State) : Micro :=
  match m with
  | .dirOn => .next (goto (.exchange t .write) (driveDir true s))
  | .write => exWrite t s
  | .dirOff => .next (goto (.exchange t .zeroTx) (driveDir false s))
  | .zeroTx => .next (goto (.exchange t .checkW) { s with txbuf := memZero })
  | .checkW => .next (exCheckW t s)
  | .zeroRx => .next (goto (.exchange t .drain) { s with rxbuf := memZero })
  | .drain => exDrain t s
  | .read => exRead t s
  | .checkR => .next (exCheckR t s)

/-- `if EX_RET != Ok: raise Fail(EX_RET)`. The rules give this line no state of its own; the model runs it at the head
of the checks that follow the exchange, in the state `check`, for a failed EXCHANGE too (DESIGN CHOICE;
notes/assumptions/6.md). -/
def exchangeResult (s : State) : Except RetCode Unit :=
  if s.latch.exRet = .ok then .ok () else .error s.latch.exRet

/-- A machine outcome. -/
abbrev Outcome := Host.Outcome State Fault Refusal

/-- At most n sequencer states of an operation, in order, stopping at IDLE and at a wait: one step of the machine for
n = 1 (R28), a whole run for an n no run reaches (notes/assumptions/1.md). -/
def drive (prog : State → Micro) : Nat → State → Outcome
  | 0, s => .next s
  | n + 1, s =>
    if s.seq = .idle then .next s
    else match prog s with
      | .next s' => drive prog n s'
      | .wait => .next s
      | .fault f => .fault f

/-- More states than an operation can take before IDLE or a wait: at most ten exchanges of nine states with eight
around each, and one more for every turn of a drain that reads (notes/assumptions/16.md). -/
def driveBound (s : State) : Nat := 256 + s.env.reads.length

/-- An operation's run. In IDLE the request is accepted, once INIT has succeeded (R342 step 1), and runs. In any
other state the operation in progress goes on, and a different request is not accepted and has no effect (R347;
notes/assumptions/9.md and 13.md). -/
def operate (r : Request) (prog : State → Micro) (s : State) : Outcome :=
  if s.seq = .idle then
    if r.op = .init ∨ s.initDone then drive prog (driveBound s) (accept r s)
    else .refused .notInitialised
  else if latchedRequest s = some r then drive prog (driveBound s) s
  else .next s

end Sys2Proof.Machine
end

