-- ==== Sys2Proof/Machine/Eeprom.lean ====
section
/-!
DEFINITION. The EEPROM service (R290 to R296): the shared format-ER exchange, READ_EEPROM, READ_EEPROM_RAW and the
read-modify-write sequencer of WRITE_EEPROM.
-/

namespace Sys2Proof.Machine

/-- EE_READ_EXCHANGE's checks after its EXCHANGE: ER_CHECK (R290). R296 gives ER_CHECK the three checks and says
nothing of the line before them, `if EX_RET != Ok: raise Fail(EX_RET)`; that it runs in this state, which is entered
after a failed EXCHANGE too, is the model's choice (DESIGN CHOICE; notes/assumptions/6.md). -/
def blockResponse (id : Int) (s : State) : Except RetCode Unit := do
  exchangeResult s
  checkHdr (rx s 0) (0x20#8 ||| BitVec.ofInt 8 id) 0xFF#8
  checkSc (rx s 1) 0x00#8
  checkMarker (rx s 2) (rx s 3)

/-- W_RESP's checks (R293): the operand id, whatever id the record sets (D33). R293 writes
`if EX_RET != Ok: raise Fail(EX_RET)` on the line of W_WRITE; that it runs in this state, which is entered after a
failed EXCHANGE too, is the model's choice (DESIGN CHOICE; notes/assumptions/6.md). -/
def blockWriteResponse (id : Int) (s : State) : Except RetCode Unit := do
  exchangeResult s
  checkHdr (rx s 0) (0x40#8 ||| BitVec.ofInt 8 id) 0xFF#8
  checkSc (rx s 1) 0x00#8

/-- `rec <- decode(RXBUF[0..65])` (R291, R322). -/
def decodeBlock (s : State) : State :=
  { s with latch := { s.latch with record := decodeRecord s.params.layout s.params.flagBits (rxBlock s) } }

/-- W_ENCODE (R293): RXBUF is the baseline, TXBUF takes the write frame. -/
def encodeBlock (id : Int) (record : EepromRecord) (s : State) : State :=
  { s with
    txbuf := memWriteList s.txbuf 0 (encodeRecord s.params.layout s.params.flagBits record (rxBlock s) id) }

/-- READ_EEPROM's states (R291). -/
def readEepromStates (id : Int) (s : State) : Micro :=
  match s.seq with
  | .admission => .next (if !idInRange id then raiseFail .invalidOption s else goto (.build .first) s)
  | .build .first => .next (sendFrame .first (.readEeprom (idBits id)) 66 s)
  | .exchange .first m => exchangeStep .first m s
  | .check .first => .next (checked (blockResponse id s) (fun _ => goto .decodeBlock) s)
  | .decodeBlock => .next (goto .validateBlock (decodeBlock s))
  | .validateBlock =>
    let s' := validate .read s.latch.record s
    .next (if recordOk .read s.latch.record then complete 0 false s.latch.record s'
      else raiseFail .eepromDataWrong s')
  | _ => .wait

/-- READ_EEPROM_RAW's states (R292): header and marker checked, nothing decoded. -/
def readEepromRawStates (id : Int) (s : State) : Micro :=
  match s.seq with
  | .admission => .next (if !idInRange id then raiseFail .invalidOption s else goto (.build .first) s)
  | .build .first => .next (sendFrame .first (.readEeprom (idBits id)) 66 s)
  | .exchange .first m => exchangeStep .first m s
  | .check .first => .next (checked (blockResponse id s) (fun _ => completePlain) s)
  | _ => .wait

/-- WRITE_EEPROM's states (R293): W_ADMIT, W_VALIDATE, W_READ, W_ENCODE, W_WRITE, W_RESP. -/
def writeEepromStates (id : Int) (record : EepromRecord) (s : State) : Micro :=
  match s.seq with
  | .admission => .next (if !idInRange id then raiseFail .invalidOption s else goto .validateRecord s)
  | .validateRecord =>
    let s' := validate .write record s
    .next (if recordOk .write record then goto (.build .first) s' else raiseFail .eepromDataWrong s')
  | .build .first => .next (sendFrame .first (.readEeprom (idBits id)) 66 s)
  | .exchange .first m => exchangeStep .first m s
  | .check .first => .next (checked (blockResponse id s) (fun _ => goto .encodeBlock) s)
  | .encodeBlock => .next (goto (.build .second) (encodeBlock id record s))
  | .build .second => .next (callExchange .second 66 2 s)
  | .exchange .second m => exchangeStep .second m s
  | .check .second => .next (checked (blockWriteResponse id s) (fun _ => completePlain) s)
  | _ => .wait

/-- READ_EEPROM (R291). -/
def execReadEeprom (id : Int) (s : State) : Outcome :=
  operate (requestOf (.readEeprom id)) (readEepromStates id) s

/-- READ_EEPROM_RAW (R292). -/
def execReadEepromRaw (id : Int) (s : State) : Outcome :=
  operate (requestOf (.readEepromRaw id)) (readEepromRawStates id) s

/-- WRITE_EEPROM (R293). -/
def execWriteEeprom (id : Int) (record : EepromRecord) (s : State) : Outcome :=
  operate (requestOf (.writeEeprom id record)) (writeEepromStates id record) s

end Sys2Proof.Machine
end

