-- ==== Sys2Proof/Machine/Identity.lean ====
section
/-!
DEFINITION. GET_ID, SET_ID and IS_SERVO_ALIVE (R320 to R323).
-/

namespace Sys2Proof.Machine

/-- GET_ID's check and value (R98, R320): bits 7:5 must be 0b111, the id is bits 4:0. -/
def idReadResponse (s : State) : Except RetCode Byte := do
  exchangeResult s
  checkIdKind (rx s 0)
  return rx s 0 &&& 0x1F#8

/-- SET_ID's checks (R99, R321), the kind first. -/
def idWriteResponse (id : Int) (s : State) : Except RetCode Unit := do
  exchangeResult s
  checkIdKind (rx s 0)
  checkIdEcho (rx s 0) id

/-- GET_ID's states (R320). -/
def getIdStates (s : State) : Micro :=
  match s.seq with
  | .admission => .next (goto (.build .first) s)
  | .build .first => .next (sendFrame .first .readId 1 s)
  | .exchange .first m => exchangeStep .first m s
  | .check .first => .next (checked (idReadResponse s) (fun v => complete (v.setWidth 16) false {}) s)
  | _ => .wait

/-- SET_ID's states (R321). -/
def setIdStates (id : Int) (s : State) : Micro :=
  match s.seq with
  | .admission => .next (if !idInRange id then raiseFail .invalidOption s else goto (.build .first) s)
  | .build .first => .next (sendFrame .first (.writeId (idBits id)) 1 s)
  | .exchange .first m => exchangeStep .first m s
  | .check .first => .next (checked (idWriteResponse id s) (fun _ => completePlain) s)
  | _ => .wait

/-- ALIVE_N (R8). -/
def aliveN : BitVec 4 := 10

/-- IS_SERVO_ALIVE's states (R322). A Fail inside an iteration is caught: it ends the iteration as a failed one. -/
def isServoAliveStates (id : Int) (s : State) : Micro :=
  match s.seq with
  | .admission =>
    .next (if !idInRange id then raiseFail .invalidOption s
      else goto .probeLoop { s with latch := { s.latch with alive := true, aliveI := 0 } })
  | .probeLoop => .next (goto (if s.latch.aliveI < aliveN then .build .first else .probeFinish) s)
  | .build .first => .next (sendFrame .first (.readEeprom (idBits id)) 66 s)
  | .exchange .first m => exchangeStep .first m s
  | .check .first =>
    .next (match blockResponse id s with
      | .ok _ => goto .decodeBlock s
      | .error _ => goto .probeFail s)
  | .decodeBlock => .next (goto .validateBlock (decodeBlock s))
  | .validateBlock =>
    .next (goto (if recordOk .read s.latch.record then .probeCompare else .probeFail)
      (validate .read s.latch.record s))
  | .probeCompare => .next (goto (if s.latch.record.id = some id then .probeNext else .probeFail) s)
  | .probeFail =>
    .next (goto (if s.params.aliveEarlyExit then .probeFinish else .probeNext)
      { s with latch := { s.latch with alive := false } })
  | .probeNext => .next (goto .probeLoop { s with latch := { s.latch with aliveI := s.latch.aliveI + 1 } })
  | .probeFinish => .next (complete 0 s.latch.alive {} s)
  | _ => .wait

/-- GET_ID (R320). -/
def execGetId (s : State) : Outcome := operate (requestOf .getId) getIdStates s

/-- SET_ID (R321). -/
def execSetId (id : Int) (s : State) : Outcome := operate (requestOf (.setId id)) (setIdStates id) s

/-- IS_SERVO_ALIVE (R322). -/
def execIsServoAlive (id : Int) (s : State) : Outcome :=
  operate (requestOf (.isServoAlive id)) (isServoAliveStates id) s

end Sys2Proof.Machine
end

