-- ==== Sys2Proof/Machine/Link.lean ====
section
/-!
DEFINITION. INIT and SET_BAUD (R150, R151): no bus frame, the transport's settings and, for INIT, the startup
window.
-/

namespace Sys2Proof.Machine

/-- CFG_BAUD for a checked rate. -/
def baudValue (baud : Int) : BaudReg := (baudReg baud).getD .none

/-- INIT's states (R150). `Delay` waits for its end (R28, R352). -/
def initStates (baud : Int) (modesel : Bool) (s : State) : Micro :=
  match s.seq with
  | .initAdmit =>
    .next (if (baudReg baud).isNone then raiseFail .invalidOption s
      else goto (if modesel then .initDirOn else .initSetBaud) s)
  | .initDirOn => .next (goto .initDelay (driveDir true s))
  | .initDelay =>
    if s.env.delays = 0 then .wait
    else .next (goto .initSetBaud (emit (.delay s.params.startupWindow)
      { s with env := { s.env with delays := s.env.delays - 1 } }))
  | .initSetBaud => .next (goto .initSetFraming (emit (.setBaud (baudRate (baudValue baud))) s))
  | .initSetFraming => .next (goto (if modesel then .initDirOff else .initFinish) (emit (.setFraming 8 .even 1) s))
  | .initDirOff => .next (goto .initFinish (driveDir false s))
  | .initFinish => .next (completePlain { s with cfgBaud := baudValue baud, initDone := true })
  | _ => .wait

/-- SET_BAUD's states (R151). -/
def setBaudStates (baud : Int) (s : State) : Micro :=
  match s.seq with
  | .baudAdmit => .next (if (baudReg baud).isNone then raiseFail .invalidOption s else goto .baudProgram s)
  | .baudProgram => .next (goto .baudFinish (emit (.setBaud (baudRate (baudValue baud))) s))
  | .baudFinish => .next (completePlain { s with cfgBaud := baudValue baud })
  | _ => .wait

/-- INIT (R150). -/
def execInit (baud : Int) (modesel : Bool) (s : State) : Outcome :=
  operate (requestOf (.init baud modesel)) (initStates baud modesel) s

/-- SET_BAUD (R151). -/
def execSetBaud (baud : Int) (s : State) : Outcome :=
  operate (requestOf (.setBaud baud)) (setBaudStates baud) s

end Sys2Proof.Machine
end

