-- ==== Sys2Proof/Machine/Parameter.lean ====
section
/-!
DEFINITION. The parameter operations (R200 to R211): READ_PARAM and WRITE_PARAM, and the mnemonics that are one of
them with the kind fixed (R113).
-/

namespace Sys2Proof.Machine

/-- READ_PARAM's response checks and value (R94, R202): rx[2], not range-checked (D38). -/
def readResponse (id : Int) (sc : Byte) (s : State) : Except RetCode Byte := do
  exchangeResult s
  checkHdr (rx s 0) (0x20#8 ||| BitVec.ofInt 8 id) 0xFF#8
  checkSc (rx s 1) sc
  return rx s 2

/-- WRITE_PARAM's response checks (R95, R203): rx[2] is not looked at (D39). -/
def writeResponse (id : Int) (sc : Byte) (s : State) : Except RetCode Unit := do
  exchangeResult s
  checkHdr (rx s 0) (0x40#8 ||| BitVec.ofInt 8 id) 0xFF#8
  checkSc (rx s 1) sc

/-- READ_PARAM's states (R202). -/
def readParamStates (id : Int) (kind : ParamKind) (s : State) : Micro :=
  match s.seq with
  | .admission =>
    .next (if !idInRange id then raiseFail .invalidOption s
      else if kind = .eeprom then raiseFail .invalidOption s
      else goto (.build .first) s)
  | .build .first => .next (sendFrame .first (.readParam (idBits id) (subcode s.params.subcodes kind)) 3 s)
  | .exchange .first m => exchangeStep .first m s
  | .check .first =>
    .next (checked (readResponse id (subcode s.params.subcodes kind) s)
      (fun v => complete (v.setWidth 16) false {}) s)
  | _ => .wait

/-- WRITE_PARAM's states (R203). -/
def writeParamStates (id : Int) (kind : ParamKind) (value : Int) (s : State) : Micro :=
  match s.seq with
  | .admission =>
    .next (if !idInRange id then raiseFail .invalidOption s
      else if kind = .eeprom then raiseFail .invalidOption s
      else if !valueInRange kind value then raiseFail .invalidOption s
      else goto (.build .first) s)
  | .build .first =>
    .next (sendFrame .first (.writeParam (idBits id) (subcode s.params.subcodes kind) (valueBits value)) 3 s)
  | .exchange .first m => exchangeStep .first m s
  | .check .first =>
    .next (checked (writeResponse id (subcode s.params.subcodes kind) s) (fun _ => completePlain) s)
  | _ => .wait

/-- READ_PARAM (R202). -/
def execReadParam (id : Int) (kind : ParamKind) (s : State) : Outcome :=
  operate (requestOf (.readParam id kind)) (readParamStates id kind) s

/-- WRITE_PARAM (R203). -/
def execWriteParam (id : Int) (kind : ParamKind) (value : Int) (s : State) : Outcome :=
  operate (requestOf (.writeParam id kind value)) (writeParamStates id kind value) s

/-- READ_STRETCH (R204). -/
def execReadStretch (id : Int) (s : State) : Outcome :=
  operate (requestOf (.readStretch id)) (readParamStates id .stretch) s

/-- READ_SPEED (R205). -/
def execReadSpeed (id : Int) (s : State) : Outcome :=
  operate (requestOf (.readSpeed id)) (readParamStates id .speed) s

/-- READ_CURRENT (R206). -/
def execReadCurrent (id : Int) (s : State) : Outcome :=
  operate (requestOf (.readCurrent id)) (readParamStates id .current) s

/-- READ_TEMPERATURE (R207). -/
def execReadTemperature (id : Int) (s : State) : Outcome :=
  operate (requestOf (.readTemperature id)) (readParamStates id .temperature) s

/-- WRITE_STRETCH (R208). -/
def execWriteStretch (id value : Int) (s : State) : Outcome :=
  operate (requestOf (.writeStretch id value)) (writeParamStates id .stretch value) s

/-- WRITE_SPEED (R209). -/
def execWriteSpeed (id value : Int) (s : State) : Outcome :=
  operate (requestOf (.writeSpeed id value)) (writeParamStates id .speed value) s

/-- WRITE_CURRENT (R210). -/
def execWriteCurrent (id value : Int) (s : State) : Outcome :=
  operate (requestOf (.writeCurrent id value)) (writeParamStates id .current value) s

/-- WRITE_TEMPERATURE (R211). -/
def execWriteTemperature (id value : Int) (s : State) : Outcome :=
  operate (requestOf (.writeTemperature id value)) (writeParamStates id .temperature value) s

end Sys2Proof.Machine
end

