-- ==== Sys2Proof/Machine/Position.lean ====
section
/-!
DEFINITION. The position operations (R180 to R183): one shared format-P exchange, and its three users.
-/

namespace Sys2Proof.Machine

/-- The position a format-P response carries (R104), on the two bytes exactly. -/
def decodedPosition (s : State) : Nat := ((rx s 1).toNat <<< 7) + (rx s 2).toNat

/-- POS_EXCHANGE after its EXCHANGE (R180): the exchange's result, the header check (bit 7 unchecked, R93), the
decoded position. -/
def positionResponse (id : Int) (s : State) : Except RetCode Nat := do
  exchangeResult s
  checkHdr (rx s 0) (BitVec.ofInt 8 id) 0x7F#8
  return decodedPosition s

/-- `OUT_VALUE <- POS_EXCHANGE; RET <- Ok` (R181, R182). -/
def finishPosition (id : Int) (s : State) : State :=
  checked (positionResponse id s) (fun p => complete (BitVec.ofNat 16 p) false {}) s

/-- SET_POS's states (R181). -/
def setPosStates (id pos : Int) (s : State) : Micro :=
  match s.seq with
  | .admission =>
    .next (if !idInRange id then raiseFail .invalidOption s
      else if !posInRange pos then raiseFail .invalidOption s
      else goto (.build .first) s)
  | .build .first => .next (sendFrame .first (.position (idBits id) (posBits pos)) 3 s)
  | .exchange .first m => exchangeStep .first m s
  | .check .first => .next (finishPosition id s)
  | _ => .wait

/-- SET_POS_WEAK's states (R182): position 0, with no position range check. -/
def setPosWeakStates (id : Int) (s : State) : Micro :=
  match s.seq with
  | .admission => .next (if !idInRange id then raiseFail .invalidOption s else goto (.build .first) s)
  | .build .first => .next (sendFrame .first (.position (idBits id) 0) 3 s)
  | .exchange .first m => exchangeStep .first m s
  | .check .first => .next (finishPosition id s)
  | _ => .wait

/-- KEEP_POS from exchange 1 (R183): a sample format P cannot carry ends the operation. -/
def sampleKeep (p : Nat) (s : State) : State :=
  let s := { s with latch := { s.latch with keepPos := BitVec.ofNat 16 p } }
  if p > 16383 then raiseFail .returnDataWrong s else goto (.build .second) s

/-- SET_POS_WEAK_KEEP's states (R183): de-energise and sample, then re-command the sample. -/
def setPosWeakKeepStates (id : Int) (s : State) : Micro :=
  match s.seq with
  | .admission => .next (if !idInRange id then raiseFail .invalidOption s else goto (.build .first) s)
  | .build .first => .next (sendFrame .first (.position (idBits id) 0) 3 s)
  | .exchange .first m => exchangeStep .first m s
  | .check .first => .next (checked (positionResponse id s) sampleKeep s)
  | .build .second => .next (sendFrame .second (.position (idBits id) (posBits s.latch.keepPos.toNat)) 3 s)
  | .exchange .second m => exchangeStep .second m s
  | .check .second => .next (checked (positionResponse id s) (fun _ => complete s.latch.keepPos false {}) s)
  | _ => .wait

/-- SET_POS (R181). -/
def execSetPos (id pos : Int) (s : State) : Outcome :=
  operate (requestOf (.setPos id pos)) (setPosStates id pos) s

/-- SET_POS_WEAK (R182). -/
def execSetPosWeak (id : Int) (s : State) : Outcome :=
  operate (requestOf (.setPosWeak id)) (setPosWeakStates id) s

/-- SET_POS_WEAK_KEEP (R183). -/
def execSetPosWeakKeep (id : Int) (s : State) : Outcome :=
  operate (requestOf (.setPosWeakKeep id)) (setPosWeakKeepStates id) s

end Sys2Proof.Machine
end

