-- ==== Sys2Proof/Machine/Dispatch.lean ====
section
/-!
DEFINITION. One arm per operation of the command port: each calls the operation's meaning.
-/

namespace Sys2Proof.Machine

def exec (i : Instr) (s : State) : Host.Outcome State Fault Refusal :=
  match i with
  | .init baud modesel => Sys2Proof.Machine.execInit baud modesel s
  | .setBaud baud => Sys2Proof.Machine.execSetBaud baud s
  | .setPos id pos => Sys2Proof.Machine.execSetPos id pos s
  | .setPosWeak id => Sys2Proof.Machine.execSetPosWeak id s
  | .setPosWeakKeep id => Sys2Proof.Machine.execSetPosWeakKeep id s
  | .readParam id kind => Sys2Proof.Machine.execReadParam id kind s
  | .writeParam id kind value => Sys2Proof.Machine.execWriteParam id kind value s
  | .readStretch id => Sys2Proof.Machine.execReadStretch id s
  | .writeStretch id value => Sys2Proof.Machine.execWriteStretch id value s
  | .readSpeed id => Sys2Proof.Machine.execReadSpeed id s
  | .writeSpeed id value => Sys2Proof.Machine.execWriteSpeed id value s
  | .readCurrent id => Sys2Proof.Machine.execReadCurrent id s
  | .writeCurrent id value => Sys2Proof.Machine.execWriteCurrent id value s
  | .readTemperature id => Sys2Proof.Machine.execReadTemperature id s
  | .writeTemperature id value => Sys2Proof.Machine.execWriteTemperature id value s
  | .readEeprom id => Sys2Proof.Machine.execReadEeprom id s
  | .readEepromRaw id => Sys2Proof.Machine.execReadEepromRaw id s
  | .writeEeprom id record => Sys2Proof.Machine.execWriteEeprom id record s
  | .isServoAlive id => Sys2Proof.Machine.execIsServoAlive id s
  | .getId => Sys2Proof.Machine.execGetId s
  | .setId id => Sys2Proof.Machine.execSetId id s

end Sys2Proof.Machine
end

