-- ==== Sys2Proof/Machine/Sequencer.lean ====
section
/-!
DEFINITION. The sequencer as the machine steps it (R26, R28): the meaning of each operation's sequencer states, and
one state of whatever the block is doing.
-/

namespace Sys2Proof.Machine

/-- The meaning of an operation's sequencer states. -/
def statesOf : Instr → State → Micro
  | .init baud modesel => initStates baud modesel
  | .setBaud baud => setBaudStates baud
  | .setPos id pos => setPosStates id pos
  | .setPosWeak id => setPosWeakStates id
  | .setPosWeakKeep id => setPosWeakKeepStates id
  | .readParam id kind => readParamStates id kind
  | .writeParam id kind value => writeParamStates id kind value
  | .readStretch id => readParamStates id .stretch
  | .writeStretch id value => writeParamStates id .stretch value
  | .readSpeed id => readParamStates id .speed
  | .writeSpeed id value => writeParamStates id .speed value
  | .readCurrent id => readParamStates id .current
  | .writeCurrent id value => writeParamStates id .current value
  | .readTemperature id => readParamStates id .temperature
  | .writeTemperature id value => writeParamStates id .temperature value
  | .readEeprom id => readEepromStates id
  | .readEepromRaw id => readEepromRawStates id
  | .writeEeprom id record => writeEepromStates id record
  | .isServoAlive id => isServoAliveStates id
  | .getId => getIdStates
  | .setId id => setIdStates id

/-- IDLE's action (R26): accepting a request, once INIT has succeeded (R342 step 1; notes/assumptions/9.md). -/
def start (r : Request) (s : State) : Outcome :=
  if r.op = .init ∨ s.initDone then .next (accept r s) else .refused .notInitialised

/-- One step of the sequencer (R28): IDLE takes the next request, or stays where there is none (R381); any other
state does its one action and moves on, or waits. With no operation latched outside IDLE, which no run reaches, there
is no action. -/
def sequencerStep (s : State) : Outcome :=
  if s.seq = .idle then
    match s.env.requests.head? with
    | some i => start (requestOf i) (takeRequest s)
    | none => .next s
  else
    match latchedInstr s with
    | some i => drive (statesOf i) 1 s
    | none => .next s

end Sys2Proof.Machine
end

