-- ==== Sys2Proof/Machine/Step.lean ====
section
/-!
DEFINITION. One step of the machine: one state of the sequencer (R28), or a reset (R382). `exec` of an operation is
what these steps come to (notes/assumptions/1.md).
-/

namespace Sys2Proof.Machine

/-- One step: a reset where one comes now (R382), else one step of the sequencer (R28). -/
def step (s : State) : Host.Outcome State Fault Refusal :=
  if s.env.resets.head? = some true then .next (resetBlock (takeReset s))
  else sequencerStep (takeReset s)

/-- s with the operation of a table word as the very next thing step runs: the block in IDLE, INIT done (the one
thing a program must have run before any other operation has a meaning, R342, R383), the operation at the head of
the command port, no reset coming. A word no operation has leaves the port empty. See notes/assumptions/5.md. -/
def State.withFetchWord (s : State) (nbits w : Nat) : State :=
  { s with
    seq := .idle
    initDone := true
    env := { s.env with
      resets := []
      requests := match decodeTableWord nbits w with
        | some i => i :: s.env.requests
        | none => [] } }

end Sys2Proof.Machine
end

