-- ==== Sys2Proof/Safety.lean ====
section
/-!
DEFINITION. The terms claims are made in: the invariant of the machine, what a wait is, what the transport offers to
an exchange and what the exchange then does on the ports, what R100 asks of a response, and what it means for an
operation to have completed.
-/

namespace Sys2Proof.Machine

/-! ## What a state of the sequencer implies -/

/-- The states of each operation (R150, R151, R181 to R183, R202, R203, R296, R320 to R322). -/
def belongs : OpCode → SeqState → Bool
  | .init, .initAdmit => true
  | .init, .initDirOn => true
  | .init, .initDelay => true
  | .init, .initSetBaud => true
  | .init, .initSetFraming => true
  | .init, .initDirOff => true
  | .init, .initFinish => true
  | .setBaud, .baudAdmit => true
  | .setBaud, .baudProgram => true
  | .setBaud, .baudFinish => true
  | .init, _ => false
  | .setBaud, _ => false
  | _, .admission => true
  | _, .build .first => true
  | _, .exchange .first _ => true
  | _, .check .first => true
  | .setPosWeakKeep, .build .second => true
  | .setPosWeakKeep, .exchange .second _ => true
  | .setPosWeakKeep, .check .second => true
  | .writeEeprom, .validateRecord => true
  | .writeEeprom, .encodeBlock => true
  | .writeEeprom, .build .second => true
  | .writeEeprom, .exchange .second _ => true
  | .writeEeprom, .check .second => true
  | .readEeprom, .decodeBlock => true
  | .readEeprom, .validateBlock => true
  | .isServoAlive, .decodeBlock => true
  | .isServoAlive, .validateBlock => true
  | .isServoAlive, .probeLoop => true
  | .isServoAlive, .probeCompare => true
  | .isServoAlive, .probeFail => true
  | .isServoAlive, .probeNext => true
  | .isServoAlive, .probeFinish => true
  | _, _ => false

/-- The states after an operation's own checks have passed (R342). -/
def admitted : SeqState → Bool
  | .idle => false
  | .initAdmit => false
  | .baudAdmit => false
  | .admission => false
  | .validateRecord => false
  | _ => true

/-- DIR in each state (R24, R141 E1 and E3, R150): high from EX_WRITE until EX_DIR_OFF has run, and through INIT's
startup window. -/
def dirWhile (modesel : Bool) : SeqState → Bool
  | .exchange _ .write => true
  | .exchange _ .dirOff => true
  | .initDelay => true
  | .initSetBaud => modesel
  | .initSetFraming => modesel
  | .initDirOff => true
  | _ => false

/-- The frame lengths EX_N and EX_M of an operation's exchange (R101); 0 where it has no such exchange. -/
def exLengths : OpCode → Turn → Nat × Nat
  | .setPos, .first => (3, 3)
  | .setPosWeak, .first => (3, 3)
  | .setPosWeakKeep, _ => (3, 3)
  | .readParam, .first => (2, 3)
  | .writeParam, .first => (3, 3)
  | .readEeprom, .first => (2, 66)
  | .readEepromRaw, .first => (2, 66)
  | .writeEeprom, .first => (2, 66)
  | .writeEeprom, .second => (66, 2)
  | .isServoAlive, .first => (2, 66)
  | .getId, .first => (4, 1)
  | .setId, .first => (4, 1)
  | _, _ => (0, 0)

/-- The command bytes of an operation's exchange (R113, R183, R293): the first is its own frame, for WRITE_EEPROM the
read frame; the second re-commands the sample, or writes the block encoded over RXBUF. -/
def commandBytes (s : State) (i : Instr) : Turn → Option (List Byte)
  | .first =>
    match i with
    | .writeEeprom id _ => some (encodeFrame (.readEeprom (idBits id)))
    | i => (instrFrame s.params [] i).map encodeFrame
  | .second =>
    match i with
    | .setPosWeakKeep id => some (encodeFrame (.position (idBits id) (posBits s.latch.keepPos.toNat)))
    | .writeEeprom id record =>
      some (encodeRecord s.params.layout s.params.flagBits record (rxBlock s) id)
    | _ => none

/-- The exchange whose command is in TXBUF and not yet written. -/
def loadedTurn (s : State) : Option Turn :=
  match s.seq with
  | .exchange t .dirOn => some t
  | .exchange t .write => some t
  | .build .second => if s.latch.op = some .writeEeprom then some .second else none
  | _ => none

/-- TXBUF may hold a command: from loading it until EX_ZERO_TX has run. -/
def txLoaded (s : State) : Bool :=
  match s.seq with
  | .exchange _ .dirOff => true
  | .exchange _ .zeroTx => true
  | _ => (loadedTurn s).isSome

/-- The states of one iteration of IS_SERVO_ALIVE (R322). -/
def insideProbe : SeqState → Bool
  | .build _ => true
  | .exchange _ _ => true
  | .check _ => true
  | .decodeBlock => true
  | .validateBlock => true
  | .probeCompare => true
  | .probeFail => true
  | .probeNext => true
  | _ => false

/-! ## The invariant -/

/-- What every state of a run satisfies. -/
structure State.Inv (s : State) : Prop where
  /-- TXBUF is in canonical form, inside its 66 bytes (R21). -/
  txWf : s.txbuf.wf = true
  /-- RXBUF is in canonical form, inside its 66 bytes (R22). -/
  rxWf : s.rxbuf.wf = true
  /-- DIR is what the sequencer's state says (R24). -/
  dirExact : s.dir = dirWhile s.latch.opModesel s.seq
  /-- TXBUF is all zero whenever no command waits in it (R141 E4). -/
  txQuiet : txLoaded s = false → s.txbuf = memZero
  /-- A command in TXBUF is the command of the operation in progress (R92 to R99). -/
  txCommand : ∀ t i bytes, loadedTurn s = some t → latchedInstr s = some i → commandBytes s i t = some bytes →
    memReadList s.txbuf 0 bytes.length = bytes
  /-- CFG_BAUD holds a rate exactly when INIT has succeeded (R25). -/
  baudProgrammed : s.initDone = true ↔ s.cfgBaud ≠ .none
  /-- Nothing writes CFG_DRAIN (R25). -/
  drainFixed : s.cfgDrain = s.params.drain
  /-- Without success the value registers are clear (R344). -/
  valuesClear : s.res.ret ≠ .ok → s.res.outValue = 0 ∧ s.res.outAlive = false ∧ s.res.outRec = {}
  /-- Outside IDLE an operation is in progress, in a state of its own, past the INIT_DONE check (R26, R342), and the
  latches hold its request with the operands it does not use clear (R40). -/
  inProgress : s.seq ≠ .idle → ∃ r, latchedRequest s = some r ∧ requestOf (instrOf r) = r ∧
    belongs r.op s.seq = true ∧ (r.op = .init ∨ s.initDone = true)
  /-- INIT drives the startup window only when modesel asks for it (R150). -/
  windowAsked : (s.seq = .initDirOn ∨ s.seq = .initDelay ∨ s.seq = .initDirOff) → s.latch.opModesel = true
  /-- WRITE_EEPROM validates its record after its id (R342, D31). -/
  idChecked : s.seq = .validateRecord → idInRange s.latch.opId = true
  /-- Past its checks an operation's operands are in their domains (R108). -/
  operandsChecked : admitted s.seq = true → ∀ i, latchedInstr s = some i → i.wellFormed = true
  /-- EX_N and EX_M are the lengths of the operation's formats (R101). -/
  lengths : ∀ t m r, s.seq = .exchange t m → latchedRequest s = some r →
    s.latch.exN.toNat = (exLengths r.op t).1 ∧ s.latch.exM.toNat = (exLengths r.op t).2
  /-- No read is made after a short write (R141 E5). -/
  fullWrite : ∀ t, (s.seq = .exchange t .zeroRx ∨ s.seq = .exchange t .drain ∨ s.seq = .exchange t .read ∨
    s.seq = .exchange t .checkR) → s.latch.exW = s.latch.exN
  /-- EXCHANGE returns Ok, WriteError or ReadError, the errors with RXBUF all zero (R140, R143). -/
  exchangeResult : ∀ t, s.seq = .check t →
    s.latch.exRet = .ok ∨ ((s.latch.exRet = .writeError ∨ s.latch.exRet = .readError) ∧ s.rxbuf = memZero)
  /-- The second position exchange re-commands a sample format P can carry (R183). -/
  sampleFits : (s.seq = .build .second ∨ ∃ m, s.seq = .exchange .second m) →
    s.latch.op = some .setPosWeakKeep → s.latch.keepPos.toNat ≤ 16383
  /-- ALIVE_I counts 0..10 (R27), and is below 10 inside an iteration (R322). -/
  probeCount : s.latch.aliveI.toNat ≤ 10 ∧
    (s.latch.op = some .isServoAlive → insideProbe s.seq = true → s.latch.aliveI.toNat < 10)

/-! ## Steps and waits -/

/-- n steps of the machine; a fault or a refusal ends them. -/
def steps : Nat → State → Outcome
  | 0, s => .next s
  | n + 1, s =>
    match step s with
    | .next t => steps n t
    | o => o

/-- The block waits: for the blocking read of EX_READ or of EX_DRAIN, or for the end of INIT's Delay. These are the
only waits there are (R28). -/
def State.waits (s : State) : Bool :=
  match s.seq with
  | .initDelay => decide (s.env.delays = 0)
  | .exchange _ .drain =>
    decide (s.cfgDrain = .loop) && decide ((takeAvail s.env).1 ≠ 0) && s.env.reads.isEmpty
  | .exchange _ .read => s.env.reads.isEmpty
  | _ => false

/-! ## One exchange with the transport -/

/-- What the transport answers to one EXCHANGE that it writes whole: the stale bytes the drain finds, each with the
count reported before it, and the response. -/
structure Offer where
  stale    : List (Nat × List Byte) := []
  response : List Byte
deriving DecidableEq, Repr

/-- An offer a drain can end on: every count reported before the last is not 0. -/
def Offer.drains (o : Offer) : Prop := ∀ p ∈ o.stale, p.1 ≠ 0

/-- An outside whose transport makes the offer first, taking all n bytes of the command, and then goes on as e. -/
def Offer.before (d : Drain) (n : Nat) (o : Offer) (e : Env) : Env :=
  match d with
  | .off => { e with writes := n :: e.writes, reads := o.response :: e.reads }
  | .loop =>
    { e with
      writes := n :: e.writes
      avails := o.stale.map Prod.fst ++ 0 :: e.avails
      reads := o.stale.map Prod.snd ++ o.response :: e.reads }

/-- What EXCHANGE does on the ports with such an offer (R72, R141), in order. -/
def Offer.actions (d : Drain) (command : List Byte) (m : Nat) (o : Offer) : List PortAction :=
  [.dir true, .write command command.length, .dir false] ++
    (match d with
      | .off => []
      | .loop => o.stale.flatMap (fun p => [.avail p.1, .read p.1 (p.2.take p.1)]) ++ [.avail 0]) ++
    [.read m o.response]

/-- The outside after the actions. -/
def Env.did (e : Env) (actions : List PortAction) : Env := { e with trace := e.trace ++ actions }

/-! ## Requests and completions -/

/-- A block that accepts a request and has had its INIT (R342). -/
structure State.Ready (s : State) : Prop where
  idle : s.seq = .idle
  initDone : s.initDone = true
  txWf : s.txbuf.wf = true

/-- What a bus operation leaves alone: the configuration registers and the parameters (R25). -/
structure SameConfig (s t : State) : Prop where
  cfgBaud : t.cfgBaud = s.cfgBaud
  cfgDrain : t.cfgDrain = s.cfgDrain
  initDone : t.initDone = s.initDone
  params : t.params = s.params

/-- t is s after the bus operation i has ended: IDLE, DIR released, TXBUF clear, RXBUF the last response and zero
after it (R143), the result registers r, the outside e, the configuration unchanged, the command latches holding
i (R27). -/
structure EndsWith (i : Instr) (s t : State) (r : Results) (response : List Byte) (e : Env) : Prop where
  idle : t.seq = .idle
  dir : t.dir = false
  txbuf : t.txbuf = memZero
  rxbuf : ∀ a, memRead t.rxbuf a = response.getD a 0x00#8
  res : t.res = r
  env : t.env = e
  config : SameConfig s t
  request : latchedRequest t = some (requestOf i)

/-- t is s after the operation i has ended with no port activity and no buffer touched: only the latches and the
result registers differ (R341, R342). -/
structure EndsBeforeBus (i : Instr) (s t : State) (r : Results) : Prop where
  idle : t.seq = .idle
  dir : t.dir = s.dir
  txbuf : t.txbuf = s.txbuf
  rxbuf : t.rxbuf = s.rxbuf
  res : t.res = r
  env : t.env = s.env
  config : SameConfig s t
  request : latchedRequest t = some (requestOf i)

/-- The operations with an id operand (R342 step 2). -/
def idOperand : Instr → Option Int
  | .init _ _ => none
  | .setBaud _ => none
  | .getId => none
  | .setPos id _ => some id
  | .setPosWeak id => some id
  | .setPosWeakKeep id => some id
  | .readParam id _ => some id
  | .writeParam id _ _ => some id
  | .readStretch id => some id
  | .writeStretch id _ => some id
  | .readSpeed id => some id
  | .writeSpeed id _ => some id
  | .readCurrent id => some id
  | .writeCurrent id _ => some id
  | .readTemperature id => some id
  | .writeTemperature id _ => some id
  | .readEeprom id => some id
  | .readEepromRaw id => some id
  | .writeEeprom id _ => some id
  | .isServoAlive id => some id
  | .setId id => some id

/-- INIT, the one operation with a meaning before INIT (R342 step 1). -/
def isInit : Instr → Bool
  | .init _ _ => true
  | _ => false

/-- The operations that put a frame on the bus (R396). -/
def usesBus : Instr → Bool
  | .init _ _ => false
  | .setBaud _ => false
  | _ => true

/-- A READ_ operation's kind and id: READ_PARAM and its four mnemonics (R113). -/
def readOperands : Instr → Option (Int × ParamKind)
  | .readParam id kind => some (id, kind)
  | .readStretch id => some (id, .stretch)
  | .readSpeed id => some (id, .speed)
  | .readCurrent id => some (id, .current)
  | .readTemperature id => some (id, .temperature)
  | _ => none

/-- A WRITE_ operation's id, kind and value: WRITE_PARAM and its four mnemonics (R113). -/
def writeOperands : Instr → Option (Int × ParamKind × Int)
  | .writeParam id kind value => some (id, kind, value)
  | .writeStretch id value => some (id, .stretch, value)
  | .writeSpeed id value => some (id, .speed, value)
  | .writeCurrent id value => some (id, .current, value)
  | .writeTemperature id value => some (id, .temperature, value)
  | _ => none

/-- IS_SERVO_ALIVE, which absorbs every failure of its exchanges (R322). -/
def isProbe : Instr → Bool
  | .isServoAlive _ => true
  | _ => false

/-- WRITE_EEPROM, whose second exchange answers a header and a sub-code (R97, R293). -/
def isWriteEeprom : Instr → Bool
  | .writeEeprom _ _ => true
  | _ => false

/-- The operations that validate a record, and so write INVALID_MASK (R35). -/
def validates : Instr → Bool
  | .readEeprom _ => true
  | .writeEeprom _ _ => true
  | .isServoAlive _ => true
  | _ => false

/-- The code a request outside its domain ends with (R108, R342): the id before the record (D31). -/
def refusalCode : Instr → RetCode
  | .writeEeprom id _ => if idInRange id then .eepromDataWrong else .invalidOption
  | _ => .invalidOption

/-- INVALID_MASK after such a request (R344): 0 unless a record was validated. -/
def refusalMask : Instr → BitVec 22
  | .writeEeprom id record => if idInRange id then invalidMask .write record else 0
  | _ => 0

/-! ## Responses -/

/-- The format-ER checks on a block (R96, R100): header, sub-code, marker. -/
def blockCheck (id : Int) (block : List Byte) : Except RetCode Unit := do
  checkHdr (block.getD 0 0x00#8) (0x20#8 ||| BitVec.ofInt 8 id) 0xFF#8
  checkSc (block.getD 1 0x00#8) 0x00#8
  checkMarker (block.getD 2 0x00#8) (block.getD 3 0x00#8)

/-- The operations whose first response is a whole block, with its marker (R96). -/
def readsBlock : Instr → Bool
  | .readEeprom _ => true
  | .readEepromRaw _ => true
  | .writeEeprom _ _ => true
  | .isServoAlive _ => true
  | _ => false

/-- The operations of an id frame, whose response kind is checked before its id (R98, R99). -/
def isIdFrame : Instr → Bool
  | .getId => true
  | .setId _ => true
  | _ => false

/-- The bits of response byte 0 above the id that an operation's first exchange checks, and what they must be (R93
to R99): bit 7 of a position response is not looked at. -/
def responseKind (i : Instr) : Byte × Byte :=
  match i with
  | .setPos _ _ => (0x60#8, 0x00#8)
  | .setPosWeak _ => (0x60#8, 0x00#8)
  | .setPosWeakKeep _ => (0x60#8, 0x00#8)
  | i =>
    if isIdFrame i then (0xE0#8, 0xE0#8)
    else if (writeOperands i).isSome then (0xE0#8, 0x40#8)
    else (0xE0#8, 0x20#8)

/-- The sub-code response byte 1 must carry in an operation's first exchange (R94 to R96), where it has one. -/
def responseSubcode (c : Subcodes) (i : Instr) : Option Byte :=
  if readsBlock i then some 0x00#8
  else match readOperands i, writeOperands i with
    | some (_, kind), _ => some (subcode c kind)
    | none, some (_, kind, _) => some (subcode c kind)
    | none, none => none

/-- A block every check of a liveness iteration passes (R322): header and marker, READ validation, the stored id. -/
def goodProbe (p : Params) (id : Int) (block : List Byte) : Bool :=
  let record := decodeRecord p.layout p.flagBits block
  decide (block.length = 66) && (blockCheck id block).toBool && recordOk .read record &&
    decide (record.id = some id)

/-- An outside whose transport makes several offers, one exchange after another, each of n command bytes. -/
def offersBefore (d : Drain) (n : Nat) (os : List Offer) (e : Env) : Env :=
  os.foldr (fun o e => o.before d n e) e

/-- What the transport does to one EXCHANGE: it takes w bytes of the command, too few, or takes the whole of it and
makes an offer, whose response may be short. -/
inductive Attempt where
  | shortWrite (w : Nat)
  | offer (o : Offer)
deriving DecidableEq, Repr

/-- An attempt on an exchange of n command bytes and m response bytes that is within R41's bounds. -/
def Attempt.Possible (n m : Nat) : Attempt → Prop
  | .shortWrite w => w < n
  | .offer o => o.drains ∧ o.response.length ≤ m

/-- An outside whose transport makes the attempt first and then goes on as e. -/
def Attempt.before (d : Drain) (n : Nat) (a : Attempt) (e : Env) : Env :=
  match a with
  | .shortWrite w => { e with writes := w :: e.writes }
  | .offer o => o.before d n e

/-- What EXCHANGE does on the ports with such an attempt. -/
def Attempt.actions (d : Drain) (command : List Byte) (m : Nat) : Attempt → List PortAction
  | .shortWrite w => [.dir true, .write command w, .dir false]
  | .offer o => o.actions d command m

/-- What such an attempt leaves in RXBUF: the response when it is complete, else nothing (R143). -/
def Attempt.left (m : Nat) : Attempt → List Byte
  | .shortWrite _ => []
  | .offer o => if o.response.length = m then o.response else []

/-- An outside whose transport makes several attempts, one exchange after another, each of n command bytes. -/
def attemptsBefore (d : Drain) (n : Nat) (as : List Attempt) (e : Env) : Env :=
  as.foldr (fun a e => a.before d n e) e

/-- An iteration of IS_SERVO_ALIVE that every check passes (R322). -/
def Attempt.good (p : Params) (id : Int) : Attempt → Bool
  | .shortWrite _ => false
  | .offer o => goodProbe p id o.response

/-- What an iteration of IS_SERVO_ALIVE writes into INVALID_MASK: it validates a complete block whose header,
sub-code and marker pass, and nothing else (R322). -/
def Attempt.mask (p : Params) (id : Int) : Attempt → Option (BitVec 22)
  | .shortWrite _ => none
  | .offer o =>
    if o.response.length = 66 ∧ (blockCheck id o.response).toBool = true then
      some (invalidMask .read (decodeRecord p.layout p.flagBits o.response))
    else none

/-- INVALID_MASK after those iterations: the last validation's, or 0 where none ran (R35, R322). -/
def lastMask (p : Params) (id : Int) (as : List Attempt) : BitVec 22 :=
  (as.filterMap (Attempt.mask p id)).getLast?.getD 0

/-- The EXCHANGE states alone: what they do, and nothing after them. -/
def exchangeStates (s : State) : Micro :=
  match s.seq with
  | .exchange t m => exchangeStep t m s
  | _ => .wait

/-! ## Frames on the bus -/

/-- A byte list that is exactly one command frame of the block (R109). -/
def legalFrame (p : Params) (bytes : List Byte) : Bool :=
  match decodeInstr p bytes with
  | .ok (_, []) => true
  | _ => false

/-- Every frame the block has put on the bus is one of its command frames. -/
def State.FramesLegal (s : State) : Prop :=
  ∀ bytes w, PortAction.write bytes w ∈ s.env.trace → legalFrame s.params bytes = true

/-- The frame formats' own operation where several share a frame (notes/assumptions/3.md). -/
def canonicalInstr : Instr → Instr
  | .setPosWeakKeep id => .setPosWeak id
  | .readParam id kind => (readInstr id kind).getD (.readParam id kind)
  | .writeParam id kind value => (writeInstr id value kind).getD (.writeParam id kind value)
  | .readEepromRaw id => .readEeprom id
  | .isServoAlive id => .readEeprom id
  | i => i

end Sys2Proof.Machine
end

