-- ==== Sys2Proof/Certificates/Slice0/Obligations.lean ====
section
/-!
DEFINITION. The statements about the machine, for the provers. A docstring names the rule a statement formalises,
or the decision of the spec or log entry it rests on.
-/

open Sys2Proof Sys2Proof.Machine

/-! ## Encoding -/

/-- Words written out from the encodings of R92 to R99 decode to the operations they stand for, under the default
configuration. Sub-codes 0x02 and 0x03 for SPEED and CURRENT are the defaults the spec takes from general knowledge
(D11; notes/assumptions/4.md); that the position-0 frame stands for SET_POS_WEAK and the block read for READ_EEPROM is
the model's choice (notes/assumptions/3.md). -/
def Obligations.FrameWordsDecodeAsSpecified : Prop :=
  decodeInstr defaultParams [0x83#8, 0x1B#8, 0x2C#8] = .ok (.setPos 3 3500, []) ∧
  decodeInstr defaultParams [0x85#8, 0x00#8, 0x00#8] = .ok (.setPosWeak 5, []) ∧
  decodeInstr defaultParams [0xBF#8, 0x02#8] = .ok (.readSpeed 31, []) ∧
  decodeInstr defaultParams [0xC4#8, 0x03#8, 0x3F#8] = .ok (.writeCurrent 4 63, []) ∧
  decodeInstr defaultParams [0xA3#8, 0x00#8] = .ok (.readEeprom 3, []) ∧
  decodeInstr defaultParams [0xFF#8, 0x00#8, 0x00#8, 0x00#8] = .ok (.getId, []) ∧
  decodeInstr defaultParams [0xFF#8, 0x01#8, 0x01#8, 0x01#8] = .ok (.setId 31, [])

/-- R90: byte 0 of a command frame carries a checked id in bits 4:0, and is the kind plus the id; an id read's is
0xFF. -/
def Obligations.CommandByteCarriesKindAndId : Prop :=
  ∀ (p : Params) (base : List Byte) (i : Instr) (bytes : List Byte), encode p base i = some bytes →
    (∀ id, idOperand i = some id → 0 ≤ id ∧ id ≤ 31 ∧
      ((bytes.getD 0 0x00#8).toNat : Int) = id +
        (match i with
          | .setPos _ _ => 0x80
          | .setPosWeak _ => 0x80
          | .setPosWeakKeep _ => 0x80
          | .setId _ => 0xE0
          | .writeEeprom _ _ => 0xC0
          | i => if (writeOperands i).isSome then 0xC0 else 0xA0) ∧
      (((bytes.getD 0 0x00#8).extractLsb' 0 5).toNat : Int) = id) ∧
    (i = .getId → bytes.getD 0 0x00#8 = 0xFF#8)

/-- R92: the three bytes of format P for any id in range and any position of fourteen bits. -/
def Obligations.PositionFrameCarriesThePosition : Prop :=
  ∀ id pos : Int, 0 ≤ id → id ≤ 31 → 0 ≤ pos → pos ≤ 16383 →
    (encodeFrame (.position (idBits id) (posBits pos))).map BitVec.toNat =
      [0x80 ||| id.toNat, pos.toNat >>> 7, pos.toNat &&& 0x7F] ∧
    pos.toNat >>> 7 < 128

/-- Decoding an encoded frame gives the frame back, whatever follows it: no bit of any format is dropped. -/
def Obligations.DecodeInvertsEncodeOfFrames : Prop :=
  ∀ (f : Frame) (rest : List Byte), f.wellFormed = true → decodeFrame (encodeFrame f ++ rest) = .ok (f, rest)

/-- Nothing but the encoding of a well-formed frame decodes: each frame has one spelling. The frame decoder reads a
parameter frame with any sub-code but 0x00; a frame decodes to an operation, in any configuration, only with one of
the four P_SUBCODE values, and with any other it is refused by name, as reserved (R109). -/
def Obligations.OnlyEncodedFramesDecode : Prop :=
  (∀ (bytes : List Byte) (f : Frame) (rest : List Byte), decodeFrame bytes = .ok (f, rest) →
    f.wellFormed = true ∧ bytes = encodeFrame f ++ rest) ∧
  ∀ p : Params,
    let paramSubcode (sc : Byte) : Prop := ∃ kind, kind ≠ .eeprom ∧ sc = subcode p.subcodes kind
    (∀ (bytes : List Byte) (i : Instr) (rest : List Byte), decodeInstr p bytes = .ok (i, rest) →
      ∃ f, f.wellFormed = true ∧ bytes = encodeFrame f ++ rest ∧ frameInstr p f = .ok i ∧
        (∀ id sc, f = .readParam id sc → paramSubcode sc) ∧
        ∀ id sc value, f = .writeParam id sc value → paramSubcode sc) ∧
    (∀ (id : BitVec 5) (sc : Byte) (rest : List Byte), sc ≠ 0x00#8 → ¬ paramSubcode sc →
      decodeInstr p (encodeFrame (.readParam id sc) ++ rest) = .error .reservedSubcode) ∧
    ∀ (id : BitVec 5) (sc : Byte) (value : BitVec 7) (rest : List Byte), sc ≠ 0x00#8 → ¬ paramSubcode sc →
      decodeInstr p (encodeFrame (.writeParam id sc value) ++ rest) = .error .reservedSubcode

/-- The words of a well-formed operation decode to it, or, where several operations share a frame, to the one that
stands for them (notes/assumptions/3.md); the words of WRITE_EEPROM to the write of every field of its block. -/
def Obligations.OperationWordsDecodeToTheOperation : Prop :=
  ∀ (p : Params) (base : List Byte) (i : Instr) (bytes rest : List Byte), p.ok = true → base.length = 66 →
    encode p base i = some bytes →
    decodeInstr p (bytes ++ rest) = .ok
      (match i with
        | .writeEeprom id _ => .writeEeprom id (decodeRecord p.layout p.flagBits bytes)
        | i => canonicalInstr i, rest)

/-! ## Buffers -/

/-- Two buffers in canonical form that read alike are the same data. -/
def Obligations.CanonicalBuffersReadAlikeAreEqual : Prop :=
  ∀ m m' : Memory, m.wf = true → m'.wf = true → (∀ a, memRead m a = memRead m' a) → m = m'

/-! ## The transceiver -/

/-- R143: what an EXCHANGE leaves, by its outcome, from every state that calls it with lengths in 1..66: the
transport writes all and answers all (Ok), writes short (WriteError), or answers short (ReadError). DIR goes up once
and down once in each, and the port actions are exactly those. -/
def Obligations.ExchangeLeavesTheStateOfItsOutcome : Prop :=
  ∀ (s : State) (t : Turn) (command : List Byte), s.seq = .exchange t .dirOn →
    exLength s.latch.exN = true → exLength s.latch.exM = true →
    memReadList s.txbuf 0 s.latch.exN.toNat = command →
    (∀ (o : Offer) (e : Env), o.drains → o.response.length = s.latch.exM.toNat →
      s.env = o.before s.cfgDrain s.latch.exN.toNat e →
      ∃ n u, drive exchangeStates n s = .next u ∧ u.seq = .check t ∧ u.latch.exRet = .ok ∧
        u.txbuf = memZero ∧ (∀ a, memRead u.rxbuf a = o.response.getD a 0x00#8) ∧ u.dir = false ∧
        u.env = e.did (o.actions s.cfgDrain command s.latch.exM.toNat)) ∧
    (∀ (w : Nat) (ws : List Nat), s.env.writes = w :: ws → w < s.latch.exN.toNat →
      ∃ n u, drive exchangeStates n s = .next u ∧ u.seq = .check t ∧ u.latch.exRet = .writeError ∧
        u.txbuf = memZero ∧ u.rxbuf = memZero ∧ u.dir = false ∧
        u.env = { s.env with writes := ws }.did [.dir true, .write command w, .dir false]) ∧
    (∀ (o : Offer) (e : Env), o.drains → o.response.length < s.latch.exM.toNat →
      s.env = o.before s.cfgDrain s.latch.exN.toNat e →
      ∃ n u, drive exchangeStates n s = .next u ∧ u.seq = .check t ∧ u.latch.exRet = .readError ∧
        u.txbuf = memZero ∧ u.rxbuf = memZero ∧ u.dir = false ∧
        u.env = e.did (o.actions s.cfgDrain command s.latch.exM.toNat))

/-! ## Admission -/

/-- R102: an id in range stands unchanged in bits 4:0 of the command byte; an id out of range has no frame, and its
operation ends with InvalidOption and no port activity. -/
def Obligations.OutOfRangeIdNeverReachesTheBus : Prop :=
  ∀ (i : Instr) (id : Int), idOperand i = some id →
    (idInRange id = true → ∀ p base bytes, encode p base i = some bytes →
      (((bytes.getD 0 0x00#8).extractLsb' 0 5).toNat : Int) = id) ∧
    (idInRange id = false → (∀ p base, encode p base i = none) ∧
      ∀ s : State, s.seq = .idle → s.initDone = true →
        ∃ t, exec i s = .next t ∧ EndsBeforeBus i s t { ret := .invalidOption })

/-- A request outside its operand domains ends at once, with the code and mask of R108 and R344, and touches nothing
else. The position and baud domains and the order of the id and record checks are the spec's own decisions (D14,
D21, D22, D31). -/
def Obligations.IllFormedRequestEndsBeforeTheBus : Prop :=
  ∀ (i : Instr) (s : State), s.seq = .idle → (isInit i = true ∨ s.initDone = true) → i.wellFormed = false →
    ∃ t, exec i s = .next t ∧
      EndsBeforeBus i s t { ret := refusalCode i, invalidMask := refusalMask i }

/-- Before the first successful INIT every other operation is refused: the spec's decision D23. -/
def Obligations.RequestBeforeInitIsRefused : Prop :=
  ∀ (i : Instr) (s : State), s.seq = .idle → s.initDone = false → isInit i = false →
    exec i s = .refused .notInitialised

/-- A request while another operation runs is not accepted and has no effect (R347; D24). -/
def Obligations.BusyBlockIgnoresOtherRequests : Prop :=
  ∀ (i : Instr) (s : State), s.seq ≠ .idle → latchedRequest s ≠ some (requestOf i) → exec i s = .next s

/-! ## What each operation does -/

/-- INIT with a legal rate (R150; the step order is D21): the port actions in order, CFG_BAUD and INIT_DONE, RET Ok,
the other value registers cleared, the buffers untouched. With modesel it waits out the startup window (R28, R352):
before the window's end the block is BUSY with DIR high and nothing of the link programmed. -/
def Obligations.InitProgramsTheTransport : Prop :=
  ∀ (baud : Int) (modesel : Bool) (reg : BaudReg) (s : State), s.seq = .idle → baudReg baud = some reg →
    ((modesel = true → s.env.delays ≠ 0) →
      ∃ t, exec (.init baud modesel) s = .next t ∧ t.seq = .idle ∧
        t.cfgBaud = reg ∧ t.initDone = true ∧ t.res = { ret := .ok } ∧
        t.dir = (if modesel then false else s.dir) ∧ t.txbuf = s.txbuf ∧ t.rxbuf = s.rxbuf ∧
        t.cfgDrain = s.cfgDrain ∧ t.params = s.params ∧
        t.env = (if modesel then
          ({ s.env with delays := s.env.delays - 1 } : Env).did
            [.dir true, .delay s.params.startupWindow, .setBaud baud.toNat, .setFraming 8 .even 1, .dir false]
          else s.env.did [.setBaud baud.toNat, .setFraming 8 .even 1])) ∧
    (modesel = true → s.env.delays = 0 →
      ∃ t, exec (.init baud modesel) s = .next t ∧ t.seq = .initDelay ∧ t.busy = true ∧ t.dir = true ∧
        t.cfgBaud = s.cfgBaud ∧ t.initDone = s.initDone ∧ t.res = s.res ∧ t.txbuf = s.txbuf ∧ t.rxbuf = s.rxbuf ∧
        t.cfgDrain = s.cfgDrain ∧ t.params = s.params ∧ t.env = s.env.did [.dir true])

/-- SET_BAUD with a legal rate (R151; the domain is D22): the transport's rate and CFG_BAUD, nothing else. -/
def Obligations.SetBaudChangesTheRateOnly : Prop :=
  ∀ (baud : Int) (reg : BaudReg) (s : State), s.seq = .idle → s.initDone = true → baudReg baud = some reg →
    ∃ t, exec (.setBaud baud) s = .next t ∧ t.seq = .idle ∧
      t.cfgBaud = reg ∧ t.initDone = s.initDone ∧ t.res = { ret := .ok } ∧
      t.dir = s.dir ∧ t.txbuf = s.txbuf ∧ t.rxbuf = s.rxbuf ∧ t.cfgDrain = s.cfgDrain ∧ t.params = s.params ∧
      t.env = s.env.did [.setBaud baud.toNat]

/-- SET_POS and SET_POS_WEAK (R181, R182): the frame sent, and OUT_VALUE the position the servo echoes, bit 7 of byte
0 unchecked and the position not range-checked (OUT_VALUE after SET_POS is D37). -/
def Obligations.PositionOperationsReturnTheEcho : Prop :=
  ∀ (i : Instr) (id pos : Int) (s : State) (o : Offer) (e : Env) (b0 b1 b2 : Byte),
    (i = .setPos id pos ∧ posInRange pos = true) ∨ (i = .setPosWeak id ∧ pos = 0) → idInRange id = true →
    s.Ready → o.drains → o.response = [b0, b1, b2] → ((b0 &&& 0x7F#8).toNat : Int) = id →
    s.env = o.before s.cfgDrain 3 e →
    ∃ t v, exec i s = .next t ∧ v.toNat = (b1.toNat <<< 7) + b2.toNat ∧
      EndsWith i s t { ret := .ok, outValue := v } [b0, b1, b2]
        (e.did (o.actions s.cfgDrain (encodeFrame (.position (idBits id) (posBits pos))) 3))

/-- SET_POS_WEAK_KEEP (R183): the second exchange re-commands the position sampled by the first, which is OUT_VALUE
(D15). -/
def Obligations.WeakKeepRecommandsTheSample : Prop :=
  ∀ (id : Int) (s : State) (o1 o2 : Offer) (e : Env) (a0 a1 a2 b0 b1 b2 : Byte) (v : BitVec 16),
    idInRange id = true → s.Ready → o1.drains → o2.drains →
    o1.response = [a0, a1, a2] → ((a0 &&& 0x7F#8).toNat : Int) = id →
    v.toNat = (a1.toNat <<< 7) + a2.toNat → v.toNat ≤ 16383 →
    o2.response = [b0, b1, b2] → ((b0 &&& 0x7F#8).toNat : Int) = id →
    s.env = o1.before s.cfgDrain 3 (o2.before s.cfgDrain 3 e) →
    ∃ t, exec (.setPosWeakKeep id) s = .next t ∧
      EndsWith (.setPosWeakKeep id) s t { ret := .ok, outValue := v } [b0, b1, b2]
        ((e.did (o1.actions s.cfgDrain (encodeFrame (.position (idBits id) 0)) 3)).did
          (o2.actions s.cfgDrain (encodeFrame (.position (idBits id) (posBits v.toNat))) 3))

/-- SET_POS_WEAK_KEEP with a sample above 16383 (R183, D15): ReturnDataWrong, no second exchange. -/
def Obligations.WeakKeepRefusesAnUnencodableSample : Prop :=
  ∀ (id : Int) (s : State) (o : Offer) (e : Env) (a0 a1 a2 : Byte),
    idInRange id = true → s.Ready → o.drains →
    o.response = [a0, a1, a2] → ((a0 &&& 0x7F#8).toNat : Int) = id → 16383 < (a1.toNat <<< 7) + a2.toNat →
    s.env = o.before s.cfgDrain 3 e →
    ∃ t, exec (.setPosWeakKeep id) s = .next t ∧
      EndsWith (.setPosWeakKeep id) s t { ret := .returnDataWrong } [a0, a1, a2]
        (e.did (o.actions s.cfgDrain (encodeFrame (.position (idBits id) 0)) 3))

/-- READ_PARAM and its four mnemonics (R202, R204 to R207): the frame sent, and OUT_VALUE the third byte, whatever it
is (D38), in every configuration. -/
def Obligations.ParameterReadsReturnTheByte : Prop :=
  ∀ (i : Instr) (id : Int) (kind : ParamKind) (s : State) (o : Offer) (e : Env) (v : Byte),
    readOperands i = some (id, kind) → idInRange id = true → kind ≠ .eeprom → s.Ready → o.drains →
    o.response = [0x20#8 ||| BitVec.ofInt 8 id, subcode s.params.subcodes kind, v] →
    s.env = o.before s.cfgDrain 2 e →
    ∃ t, exec i s = .next t ∧
      EndsWith i s t { ret := .ok, outValue := v.setWidth 16 } o.response
        (e.did (o.actions s.cfgDrain
          (encodeFrame (.readParam (idBits id) (subcode s.params.subcodes kind))) 3))

/-- WRITE_PARAM and its four mnemonics (R203, R208 to R211): the frame sent, RET Ok, the third response byte ignored
(D39). -/
def Obligations.ParameterWritesSendTheValue : Prop :=
  ∀ (i : Instr) (id : Int) (kind : ParamKind) (value : Int) (s : State) (o : Offer) (e : Env) (x : Byte),
    writeOperands i = some (id, kind, value) → idInRange id = true → valueInRange kind value = true →
    s.Ready → o.drains →
    o.response = [0x40#8 ||| BitVec.ofInt 8 id, subcode s.params.subcodes kind, x] →
    s.env = o.before s.cfgDrain 3 e →
    ∃ t, exec i s = .next t ∧
      EndsWith i s t { ret := .ok } o.response
        (e.did (o.actions s.cfgDrain
          (encodeFrame (.writeParam (idBits id) (subcode s.params.subcodes kind) (valueBits value))) 3))

/-- READ_EEPROM of a block whose header and marker pass (R291): OUT_REC is the decoded record when READ validation
passes; otherwise EepromDataWrong, INVALID_MASK naming the fields, OUT_REC clear (D19). RXBUF keeps the block. -/
def Obligations.ReadEepromDecodesTheBlock : Prop :=
  ∀ (id : Int) (s : State) (o : Offer) (e : Env), idInRange id = true → s.Ready → o.drains →
    o.response.length = 66 → blockCheck id o.response = .ok () → s.env = o.before s.cfgDrain 2 e →
    ∃ t, exec (.readEeprom id) s = .next t ∧
      EndsWith (.readEeprom id) s t
        (let r := decodeRecord s.params.layout s.params.flagBits o.response
         if recordOk .read r then { ret := .ok, outRec := r }
         else { ret := .eepromDataWrong, invalidMask := invalidMask .read r })
        o.response (e.did (o.actions s.cfgDrain (encodeFrame (.readEeprom (idBits id))) 66))

/-- READ_EEPROM_RAW of a block whose header and marker pass (R292, D17): RET Ok whatever the fields hold, the block
in RXBUF, OUT_REC and INVALID_MASK clear. -/
def Obligations.RawReadReturnsTheBlock : Prop :=
  ∀ (id : Int) (s : State) (o : Offer) (e : Env), idInRange id = true → s.Ready → o.drains →
    o.response.length = 66 → blockCheck id o.response = .ok () → s.env = o.before s.cfgDrain 2 e →
    ∃ t, exec (.readEepromRaw id) s = .next t ∧
      EndsWith (.readEepromRaw id) s t { ret := .ok } o.response
        (e.did (o.actions s.cfgDrain (encodeFrame (.readEeprom (idBits id))) 66))

/-- R294: the baseline of the write frame is the response of the same operation's read; two exchanges when all goes
well, read then write; none when the record fails validation; one when the read exchange or its checks fail. -/
def Obligations.WriteEepromIsReadModifyWrite : Prop :=
  ∀ (id : Int) (record : EepromRecord) (s : State), idInRange id = true → s.Ready →
    let read := encodeFrame (.readEeprom (idBits id))
    (recordOk .write record = false →
      ∃ t, exec (.writeEeprom id record) s = .next t ∧
        EndsBeforeBus (.writeEeprom id record) s t
          { ret := .eepromDataWrong, invalidMask := invalidMask .write record }) ∧
    (recordOk .write record = true →
      (∀ (o1 o2 : Offer) (e : Env), o1.drains → o2.drains → o1.response.length = 66 →
        blockCheck id o1.response = .ok () → o2.response = [0x40#8 ||| BitVec.ofInt 8 id, 0x00#8] →
        s.env = o1.before s.cfgDrain 2 (o2.before s.cfgDrain 66 e) →
        ∃ t, exec (.writeEeprom id record) s = .next t ∧
          EndsWith (.writeEeprom id record) s t { ret := .ok } o2.response
            ((e.did (o1.actions s.cfgDrain read 66)).did (o2.actions s.cfgDrain
              (encodeRecord s.params.layout s.params.flagBits record o1.response id) 2))) ∧
      (∀ (o : Offer) (e : Env) (c : RetCode), o.drains → o.response.length = 66 →
        blockCheck id o.response = .error c → s.env = o.before s.cfgDrain 2 e →
        ∃ t, exec (.writeEeprom id record) s = .next t ∧
          EndsWith (.writeEeprom id record) s t { ret := c } o.response
            (e.did (o.actions s.cfgDrain read 66))) ∧
      (∀ (w : Nat) (ws : List Nat), s.env.writes = w :: ws → w < 2 →
        ∃ t, exec (.writeEeprom id record) s = .next t ∧
          EndsWith (.writeEeprom id record) s t { ret := .writeError } []
            ({ s.env with writes := ws }.did [.dir true, .write read w, .dir false])) ∧
      (∀ (o : Offer) (e : Env), o.drains → o.response.length < 66 → s.env = o.before s.cfgDrain 2 e →
        ∃ t, exec (.writeEeprom id record) s = .next t ∧
          EndsWith (.writeEeprom id record) s t { ret := .readError } []
            (e.did (o.actions s.cfgDrain read 66))))

/-- IS_SERVO_ALIVE over ten good reads (R322): OUT_ALIVE 1 after exactly ten exchanges, in every configuration (RET
Ok is D18). -/
def Obligations.TenGoodReadsAreAlive : Prop :=
  ∀ (id : Int) (s : State) (os : List Offer) (last : Offer) (e : Env), idInRange id = true → s.Ready →
    os.length = 9 → (∀ o ∈ os ++ [last], o.drains ∧ goodProbe s.params id o.response = true) →
    s.env = offersBefore s.cfgDrain 2 (os ++ [last]) e →
    ∃ t, exec (.isServoAlive id) s = .next t ∧
      EndsWith (.isServoAlive id) s t { ret := .ok, outAlive := true } last.response
        (e.did ((os ++ [last]).flatMap
          fun o => o.actions s.cfgDrain (encodeFrame (.readEeprom (idBits id))) 66))

/-- IS_SERVO_ALIVE with a failed iteration (R322): a short write, a short read, a block that fails a check, or a wrong
stored id. OUT_ALIVE 0 with RET Ok, INVALID_MASK that of the last validation run (R35), or 0 where none ran; with
P_ALIVE_EARLY_EXIT the failed iteration is the last, without it all ten are made (D18). -/
def Obligations.OneBadReadIsNotAlive : Prop :=
  ∀ (id : Int) (s : State) (made : List Attempt) (e : Env), idInRange id = true → s.Ready →
    (∀ a ∈ made, a.Possible 2 66) →
    (if s.params.aliveEarlyExit then
      ∃ good bad, made = good ++ [bad] ∧ good.length < 10 ∧ (∀ a ∈ good, a.good s.params id = true) ∧
        bad.good s.params id = false
     else made.length = 10 ∧ ∃ a ∈ made, a.good s.params id = false) →
    s.env = attemptsBefore s.cfgDrain 2 made e →
    ∃ t, exec (.isServoAlive id) s = .next t ∧
      EndsWith (.isServoAlive id) s t { ret := .ok, invalidMask := lastMask s.params id made }
        ((made.getLast?.map (Attempt.left 66)).getD [])
        (e.did (made.flatMap (Attempt.actions s.cfgDrain (encodeFrame (.readEeprom (idBits id))) 66)))

/-- GET_ID (R320): the frame of R98, and OUT_VALUE bits 4:0 of a response whose bits 7:5 are 0b111. -/
def Obligations.GetIdReturnsTheIdBits : Prop :=
  ∀ (s : State) (o : Offer) (e : Env) (id : BitVec 5), s.Ready → o.drains → o.response = [0b111#3 ++ id] →
    s.env = o.before s.cfgDrain 4 e →
    ∃ t, exec .getId s = .next t ∧
      EndsWith .getId s t { ret := .ok, outValue := id.setWidth 16 } o.response
        (e.did (o.actions s.cfgDrain [0xFF#8, 0x00#8, 0x00#8, 0x00#8] 1))

/-- SET_ID (R321): the frame of R99, and RET Ok on the echo of the id. -/
def Obligations.SetIdAcceptsItsEcho : Prop :=
  ∀ (id : Int) (s : State) (o : Offer) (e : Env), idInRange id = true → s.Ready → o.drains →
    o.response = [0b111#3 ++ idBits id] → s.env = o.before s.cfgDrain 4 e →
    ∃ t, exec (.setId id) s = .next t ∧
      EndsWith (.setId id) s t { ret := .ok } o.response
        (e.did (o.actions s.cfgDrain [0xE0#8 ||| BitVec.ofInt 8 id, 0x01#8, 0x01#8, 0x01#8] 1))

/-! ## Failures -/

/-- A complete response to the first exchange that fails its format's checks (R100): the operation ends with the code of
the first failed check and no further exchange, the value registers clear, RXBUF keeping the response. Other id bits
are IdMismatch, right ones with other kind bits ReturnDataWrong (for an id frame the kind is checked first), then the
sub-code ReturnDataWrong, then the marker EepromDataWrong (the codes and their order are D3 and D36; D19, D20). -/
def Obligations.FailedResponseCheckEndsTheOperation : Prop :=
  ∀ (i : Instr) (s : State) (o : Offer) (e : Env) (command : List Byte),
    usesBus i = true → isProbe i = false → i.wellFormed = true → s.Ready → o.drains →
    commandBytes s i .first = some command →
    o.response.length = (exLengths (requestOf i).op .first).2 →
    s.env = o.before s.cfgDrain command.length e →
    let b (k : Nat) : Byte := o.response.getD k 0x00#8
    let idRight : Prop := ∀ id, idOperand i = some id → ((b 0 &&& 0x1F#8).toNat : Int) = id
    let kindRight : Prop := b 0 &&& (responseKind i).1 = (responseKind i).2
    let Ends (c : RetCode) : Prop := ∃ t, exec i s = .next t ∧
      EndsWith i s t { ret := c } o.response (e.did (o.actions s.cfgDrain command o.response.length))
    (isIdFrame i = false → (¬ idRight → Ends .idMismatch) ∧ (idRight → ¬ kindRight → Ends .returnDataWrong)) ∧
    (isIdFrame i = true → (¬ kindRight → Ends .returnDataWrong) ∧ (kindRight → ¬ idRight → Ends .idMismatch)) ∧
    (∀ sc, responseSubcode s.params.subcodes i = some sc → idRight → kindRight → b 1 ≠ sc →
      Ends .returnDataWrong) ∧
    (readsBlock i = true → idRight → kindRight → b 1 = 0x00#8 →
      ((b 2).toNat <<< 4) ||| (b 3).toNat ≠ 0x5A → Ends .eepromDataWrong)

/-- A short write or a short read in the first exchange of any bus operation (R341, R346): WriteError or ReadError,
both buffers zero, no further exchange; IS_SERVO_ALIVE absorbs it into OUT_ALIVE 0 (with the early exit of D18). -/
def Obligations.ShortTransferEndsTheOperation : Prop :=
  ∀ (i : Instr) (s : State) (command : List Byte), usesBus i = true → i.wellFormed = true → s.Ready →
    (isProbe i = true → s.params.aliveEarlyExit = true) → commandBytes s i .first = some command →
    (∀ (w : Nat) (ws : List Nat), s.env.writes = w :: ws → w < command.length →
      ∃ t, exec i s = .next t ∧
        EndsWith i s t { ret := if isProbe i then .ok else .writeError } []
          ({ s.env with writes := ws }.did [.dir true, .write command w, .dir false])) ∧
    (∀ (o : Offer) (e : Env), o.drains → o.response.length < (exLengths (requestOf i).op .first).2 →
      s.env = o.before s.cfgDrain command.length e →
      ∃ t, exec i s = .next t ∧
        EndsWith i s t { ret := if isProbe i then .ok else .readError } []
          (e.did (o.actions s.cfgDrain command (exLengths (requestOf i).op .first).2)))

/-- A second exchange that fails (R183, R293): SET_POS_WEAK_KEEP and WRITE_EEPROM propagate a short write as WriteError
and a short read as ReadError, both buffers zero (R143), other id bits in response byte 0 as IdMismatch, and right id
bits with other kind bits, or for WRITE_EEPROM another sub-code, as ReturnDataWrong (the codes are D3), RXBUF keeping
that response (D20); both exchanges have been made. -/
def Obligations.SecondExchangeFailureIsPropagated : Prop :=
  ∀ (i : Instr) (id : Int) (s : State) (o1 : Offer) (first second : List Byte) (m1 m2 : Nat),
    i.wellFormed = true → s.Ready → o1.drains → o1.response.length = m1 →
    ((i = .setPosWeakKeep id ∧ m1 = 3 ∧ m2 = 3 ∧ ((o1.response.getD 0 0x00#8 &&& 0x7F#8).toNat : Int) = id ∧
        first = encodeFrame (.position (idBits id) 0) ∧
        ∃ v : BitVec 14, second = encodeFrame (.position (idBits id) v) ∧
          v.toNat = ((o1.response.getD 1 0x00#8).toNat <<< 7) + (o1.response.getD 2 0x00#8).toNat) ∨
      (∃ record, i = .writeEeprom id record ∧ m1 = 66 ∧ m2 = 2 ∧ blockCheck id o1.response = .ok () ∧
        first = encodeFrame (.readEeprom (idBits id)) ∧
        second = encodeRecord s.params.layout s.params.flagBits record o1.response id)) →
    (∀ (w : Nat) (e : Env), w < second.length →
      s.env = o1.before s.cfgDrain first.length { e with writes := w :: e.writes } →
      ∃ t, exec i s = .next t ∧
        EndsWith i s t { ret := .writeError } []
          ((e.did (o1.actions s.cfgDrain first m1)).did [.dir true, .write second w, .dir false])) ∧
    ∀ (o2 : Offer) (e : Env), o2.drains →
      s.env = o1.before s.cfgDrain first.length (o2.before s.cfgDrain second.length e) →
      let b (k : Nat) : Byte := o2.response.getD k 0x00#8
      let Ends (c : RetCode) (left : List Byte) : Prop := ∃ t, exec i s = .next t ∧
        EndsWith i s t { ret := c } left
          ((e.did (o1.actions s.cfgDrain first m1)).did (o2.actions s.cfgDrain second m2))
      (o2.response.length < m2 → Ends .readError []) ∧
      (o2.response.length = m2 → ((b 0 &&& 0x1F#8).toNat : Int) ≠ id → Ends .idMismatch o2.response) ∧
      (o2.response.length = m2 → ((b 0 &&& 0x1F#8).toNat : Int) = id →
        ((i = .setPosWeakKeep id ∧ b 0 &&& 0x60#8 ≠ 0x00#8) ∨
          (isWriteEeprom i = true ∧ (b 0 &&& 0xE0#8 ≠ 0x40#8 ∨ b 1 ≠ 0x00#8))) →
        Ends .returnDataWrong o2.response)

/-! ## The EEPROM codec -/

/-- R275: for every record that passes WRITE validation, every baseline and every layout and flag bits meeting R122,
a written field decodes to its value, an unwritten one to the baseline's, and free to the baseline's. -/
def Obligations.CodecRoundTrip : Prop :=
  ∀ (l : Layout) (b : FlagBits) (r : EepromRecord) (base : List Byte) (id : Int), l.ok = true → b.ok = true →
    base.length = 66 → recordOk .write r = true →
    let out := decodeRecord l b (encodeRecord l b r base id)
    (∀ f v, f ≠ Field.free → r.get f = some v → out.get f = some v) ∧
    (∀ f, r.get f = none → out.get f = (decodeRecord l b base).get f) ∧
    out.free = (decodeRecord l b base).free

/-- What the encoder does not change (R268; that it forces bytes 0 and 1 alone is D34): every byte outside the header
and outside the groups of the requested fields. -/
def Obligations.EncoderTouchesOnlyRequestedGroups : Prop :=
  ∀ (l : Layout) (b : FlagBits) (r : EepromRecord) (base : List Byte) (id : Int), l.ok = true → base.length = 66 →
    let out := encodeRecord l b r base id
    out.length = 66 ∧ out.getD 0 0x00#8 = 0b110#3 ++ idBits id ∧ out.getD 1 0x00#8 = 0x00#8 ∧
    ∀ k, 2 ≤ k → (∀ g, (groupValue l b r base g).isSome = true → ¬ (l.off g ≤ k ∧ k < l.off g + g.size)) →
      out.getD k 0x00#8 = base.getD k 0x00#8

/-- What the encoder writes (R233, R260 to R266): for a record that passes WRITE validation, each requested field's
value in the two bytes of its own group, high nibble first, doubled for the stretches (R262), as a code for commspeed
(R264), as the negated byte for offset (R263); a position limit in four bytes, high byte first (R64, D7); and a
requested flag in its own bit, the other bits of the flags byte the baseline's (R265). That the baseline's whole flags
byte, cut to eight bits, is written back through split, so that a flags wire byte above 0x0F comes out normalised, is
the spec's own decision D10. -/
def Obligations.EncoderWritesEachFieldInItsGroup : Prop :=
  ∀ (l : Layout) (b : FlagBits) (r : EepromRecord) (base : List Byte) (id : Int), l.ok = true → b.ok = true →
    base.length = 66 → recordOk .write r = true →
    let out := encodeRecord l b r base id
    let holds (off v : Nat) : Prop :=
      (out.getD off 0x00#8).toNat = v / 16 ∧ (out.getD (off + 1) 0x00#8).toNat = v % 16
    let baseFlags : Nat := ((base.getD l.flags 0x00#8).toNat <<< 4) ||| (base.getD (l.flags + 1) 0x00#8).toNat
    (∀ v, r.stretch = some v → holds l.stretch (2 * v.toNat)) ∧
    (∀ v, r.speed = some v → holds l.speed v.toNat) ∧
    (∀ v, r.punch = some v → holds l.punch v.toNat) ∧
    (∀ v, r.deadband = some v → holds l.deadband v.toNat) ∧
    (∀ v, r.dumping = some v → holds l.dumping v.toNat) ∧
    (∀ v, r.safetimer = some v → holds l.safetimer v.toNat) ∧
    (∀ v, r.poslimithigh = some v →
      holds l.poslimithigh (v.toNat / 256) ∧ holds (l.poslimithigh + 2) (v.toNat % 256)) ∧
    (∀ v, r.poslimitlow = some v →
      holds l.poslimitlow (v.toNat / 256) ∧ holds (l.poslimitlow + 2) (v.toNat % 256)) ∧
    (∀ v, r.commspeed = some v →
      holds l.commspeed (if v = 1250000 then 0x00 else if v = 625000 then 0x01 else 0x0A)) ∧
    (∀ v, r.temperaturelimit = some v → holds l.temperaturelimit v.toNat) ∧
    (∀ v, r.currentlimit = some v → holds l.currentlimit v.toNat) ∧
    (∀ v, r.response = some v → holds l.response v.toNat) ∧
    (∀ v, r.offset = some v → holds l.offset (BitVec.ofInt 8 (-v)).toNat) ∧
    (∀ v, r.id = some v → holds l.id v.toNat) ∧
    (∀ v, r.charstretch1 = some v → holds l.charstretch1 (2 * v.toNat)) ∧
    (∀ v, r.charstretch2 = some v → holds l.charstretch2 (2 * v.toNat)) ∧
    (∀ v, r.charstretch3 = some v → holds l.charstretch3 (2 * v.toNat)) ∧
    ((r.slave.isSome || r.rotation.isSome || r.pwminhibit.isSome || r.reverse.isSome) = true →
      ∃ fl, fl < 256 ∧ holds l.flags fl ∧ ∀ k, k < 8 →
        fl.testBit k =
          (if k = b.slave then r.slave else if k = b.rotation then r.rotation
            else if k = b.pwminhibit then r.pwminhibit else if k = b.reverse then r.reverse
            else none).getD (baseFlags.testBit k))

/-- Which group each field decodes from and how (R232, R234 to R256): two bytes high part first, halved for the
stretches, a bit of the flags byte for a flag, a code for commspeed, four bytes with the lower-indexed pair high (R64,
D7) for a position limit. -/
def Obligations.DecoderReadsEachFieldFromItsGroup : Prop :=
  ∀ (l : Layout) (b : FlagBits) (frame : List Byte),
    let pair (off : Nat) : Nat :=
      ((frame.getD off 0x00#8).toNat <<< 4) ||| (frame.getD (off + 1) 0x00#8).toNat
    let quad (off : Nat) : Nat := (pair off <<< 8) ||| pair (off + 2)
    let r := decodeRecord l b frame
    r.stretch = some ↑(pair l.stretch / 2) ∧ r.speed = some ↑(pair l.speed) ∧ r.punch = some ↑(pair l.punch) ∧
    r.deadband = some ↑(pair l.deadband) ∧ r.dumping = some ↑(pair l.dumping) ∧
    r.safetimer = some ↑(pair l.safetimer) ∧
    r.slave = some ((pair l.flags).testBit b.slave) ∧ r.rotation = some ((pair l.flags).testBit b.rotation) ∧
    r.pwminhibit = some ((pair l.flags).testBit b.pwminhibit) ∧ r.free = some ((pair l.flags).testBit b.free) ∧
    r.reverse = some ((pair l.flags).testBit b.reverse) ∧
    r.poslimithigh = some ↑(quad l.poslimithigh) ∧ r.poslimitlow = some ↑(quad l.poslimitlow) ∧
    r.commspeed = (if pair l.commspeed = 0x00 then some 1250000 else if pair l.commspeed = 0x01 then some 625000
      else if pair l.commspeed = 0x0A then some 115200 else none) ∧
    r.temperaturelimit = some ↑(pair l.temperaturelimit) ∧ r.currentlimit = some ↑(pair l.currentlimit) ∧
    r.response = some ↑(pair l.response) ∧ r.id = some ↑(pair l.id) ∧
    r.charstretch1 = some ↑(pair l.charstretch1 / 2) ∧ r.charstretch2 = some ↑(pair l.charstretch2 / 2) ∧
    r.charstretch3 = some ↑(pair l.charstretch3 / 2) ∧
    r.offset = some (if (pair l.offset).testBit 7 then 128 - ((pair l.offset % 128 : Nat) : Int)
      else -(pair l.offset : Int))

/-- R267: free is never written, whatever the record says of it. -/
def Obligations.FreeFlagIsNeverWritten : Prop :=
  ∀ (l : Layout) (b : FlagBits) (r : EepromRecord) (base : List Byte) (id : Int) (v : Option Bool), l.ok = true →
    b.ok = true → base.length = 66 →
    encodeRecord l b { r with free := v } base id = encodeRecord l b r base id ∧
    (getGroup l (encodeRecord l b r base id) .flags).testBit b.free = (getGroup l base .flags).testBit b.free

/-- The nibble code (R230, R231; the unbounded reading and split are D6). -/
def Obligations.SplitThenCombineIsIdentity : Prop :=
  (∀ v, v < 256 → combine (split v).1 (split v).2 = v ∧ (split v).1.toNat < 16 ∧ (split v).2.toNat < 16) ∧
  (∀ a b : Byte, combine a b < 4096 ∧ (b.toNat < 16 → combine a b = 16 * a.toNat + b.toNat))

/-- R277: the offset's code round-trips on -127..127, and 0x80 is never stored. -/
def Obligations.OffsetCodeRoundTrips : Prop :=
  ∀ v : Int, -127 ≤ v → v ≤ 127 →
    decodeOffset (encodeOffset v) = v ∧ encodeOffset v < 256 ∧ encodeOffset v ≠ 0x80

/-- R252: the record's offset is the offset group's value through the two branches of the sign convention, for a byte
minus the byte read as two's complement; validation refuses every value outside -127..127. -/
def Obligations.OffsetDecodesByItsSignConvention : Prop :=
  (∀ (l : Layout) (b : FlagBits) (frame : List Byte),
    (decodeRecord l b frame).offset = some (decodeOffset (get8 frame l.offset))) ∧
  (∀ (mode : ValidationMode) (v : Int), v < -127 ∨ 127 < v →
    fieldInvalid mode { offset := some v } .offset = true) ∧
  (∀ r, r < 256 → decodeOffset r = -(BitVec.ofNat 8 r).toInt) ∧
  (∀ r : Nat, decodeOffset r = if r.testBit 7 then 128 - ((r % 128 : Nat) : Int) else -(r : Int))

/-- R273: every field is checked, and the mask holds every violation, even though RET carries one code. -/
def Obligations.MaskHoldsEveryViolation : Prop :=
  (∀ (mode : ValidationMode) (r : EepromRecord) (f : Field),
    (invalidMask mode r).getLsbD f.index = fieldInvalid mode r f) ∧
  (∀ (mode : ValidationMode) (r : EepromRecord),
    recordOk mode r = true ↔ ∀ f, fieldInvalid mode r f = false) ∧
  ∀ (id : Int) (s : State), idInRange id = true → s.Ready →
    ∃ t, exec (.writeEeprom id { stretch := some 0, offset := some 128 }) s = .next t ∧
      t.res.ret = .eepromDataWrong ∧ t.res.invalidMask = 0x020001#22

/-- The two validation modes differ on the position limits alone (R272, D13). -/
def Obligations.ModesDifferOnPositionLimitsOnly : Prop :=
  ∀ (r : EepromRecord) (f : Field),
    (f ≠ .poslimithigh → f ≠ .poslimitlow → fieldInvalid .read r f = fieldInvalid .write r f) ∧
    (∀ v, (f = .poslimithigh ∨ f = .poslimitlow) → r.get f = some (.num v) →
      (fieldInvalid .read r f = false ↔ 0 ≤ v ∧ v ≤ 65535) ∧
      (fieldInvalid .write r f = false ↔ 3500 ≤ v ∧ v ≤ 11500))

/-! ## The machine as a whole -/

/-- The reset values, which are the spec's decisions D5 and D25 (R380). What the latches that are no numbers hold
(OPKIND, OPREC, OPMODESEL) and the three latches of the model's own hold is the model's choice (notes/assumptions/11.md;
the three latches are those of notes/assumptions/7.md). -/
def Obligations.ResetLeavesTheSpecsValues : Prop :=
  (∀ a, memRead State.reset.txbuf a = 0x00#8) ∧ (∀ a, memRead State.reset.rxbuf a = 0x00#8) ∧
  State.reset.dir = false ∧ State.reset.cfgBaud = .none ∧ State.reset.cfgDrain = .loop ∧
  State.reset.initDone = false ∧ State.reset.seq = .idle ∧ State.reset.busy = false ∧
  State.reset.latch =
    { op := none, opId := 0, opKind := .eeprom, opVal := 0, opPos := 0, opRec := .notChanged, opBaud := 0
      opModesel := false, exN := 0, exM := 0, exW := 0, exR := 0, exRet := .none, keepPos := 0, aliveI := 0
      record := .notChanged, alive := false, validated := false } ∧
  State.reset.res = { ret := .none, outValue := 0, outAlive := false, outRec := .notChanged, invalidMask := 0 }

/-- A reset at any point puts every state of the block at its reset value and leaves the outside as it was (R382,
D42); the step at which the outside resets the block is that reset, whatever state the block is in. -/
def Obligations.ResetAbandonsTheOperation : Prop :=
  (∀ s : State, (resetBlock s).env = s.env ∧ (resetBlock s).params = s.params ∧
    (resetBlock s).cfgDrain = s.params.drain ∧
    ({ resetBlock s with env := {}, params := defaultParams, cfgDrain := .loop } : State) = State.reset) ∧
  ∀ (s : State) (rs : List Bool), s.env.resets = true :: rs →
    step s = .next (State.afterReset s.params { s.env with resets := rs })

/-- The invariant holds after reset, under every configuration and beside every outside. -/
def Obligations.ResetMeetsTheInvariant : Prop :=
  State.reset.Inv ∧ ∀ (p : Params) (e : Env), (State.afterReset p e).Inv

/-- Every step keeps the invariant. -/
def Obligations.StepKeepsTheInvariant : Prop :=
  ∀ s t : State, s.Inv → step s = .next t → t.Inv

/-- No step from a state that meets the invariant faults: the block has no fatal condition (R340). -/
def Obligations.InvariantStatesNeverFault : Prop :=
  ∀ (s : State) (f : Fault), s.Inv → step s ≠ .fault f

/-- An operation runs until the block is IDLE or waits: it stops nowhere else (R28, R349; notes/assumptions/1.md and
16.md). -/
def Obligations.OperationRunsToIdleOrAWait : Prop :=
  ∀ (i : Instr) (s t : State), s.Inv → (s.seq = .idle ∨ latchedRequest s = some (requestOf i)) →
    exec i s = .next t → t.seq = .idle ∨ t.waits = true

/-- The only waits are the blocking reads of EX_READ and EX_DRAIN and INIT's Delay (R28): outside IDLE a step leaves
the state as it is exactly there. -/
def Obligations.StepWaitsOnlyForReadsAndTheWindow : Prop :=
  ∀ s : State, s.Inv → s.env.resets = [] → s.seq ≠ .idle → (step s = .next s ↔ s.waits = true)

/-- One step is one state of EXCHANGE, with exactly its action, and moves to the next of R141's order (R28, R141), in
every operation and in each of its exchanges. EX_DRAIN is one turn of its loop (notes/assumptions/14.md); the state
after EX_CHECK_R, and after a short write in EX_CHECK_W, is that of the checks (notes/assumptions/6.md); where no
answer of Bus.write is listed it is some number within R41's bound, and where none of Bus.avail is, EX_DRAIN goes on
with some count (notes/assumptions/22.md). -/
def Obligations.EachStepIsOneExchangeState : Prop :=
  ∀ (s : State) (t : Turn) (m : ExState), s.Inv → s.env.resets = [] → s.seq = .exchange t m →
    (m = .dirOn → step s = .next
      { s with dir := true, seq := .exchange t .write, env := s.env.did [.dir true] }) ∧
    (m = .write →
      (∀ w ws, s.env.writes = w :: ws → w ≤ s.latch.exN.toNat → step s = .next
        { s with
          seq := .exchange t .dirOff
          latch := { s.latch with exW := BitVec.ofNat 7 w }
          env := { s.env with writes := ws }.did [.write (memReadList s.txbuf 0 s.latch.exN.toNat) w] }) ∧
      (s.env.writes = [] → ∃ w, w ≤ s.latch.exN.toNat ∧ step s = .next
        { s with
          seq := .exchange t .dirOff
          latch := { s.latch with exW := BitVec.ofNat 7 w }
          env := { s.env with draws := s.env.draws + 1 }.did
            [.write (memReadList s.txbuf 0 s.latch.exN.toNat) w] })) ∧
    (m = .dirOff → step s = .next
      { s with dir := false, seq := .exchange t .zeroTx, env := s.env.did [.dir false] }) ∧
    (m = .zeroTx → step s = .next { s with txbuf := memZero, seq := .exchange t .checkW }) ∧
    (m = .checkW →
      (s.latch.exW ≠ s.latch.exN → step s = .next
        { s with rxbuf := memZero, seq := .check t, latch := { s.latch with exRet := .writeError } }) ∧
      (s.latch.exW = s.latch.exN → step s = .next { s with seq := .exchange t .zeroRx })) ∧
    (m = .zeroRx → step s = .next { s with rxbuf := memZero, seq := .exchange t .drain }) ∧
    (m = .drain →
      (s.cfgDrain = .off → step s = .next { s with seq := .exchange t .read }) ∧
      (∀ k ks, s.cfgDrain = .loop → s.env.avails = k :: ks →
        (k = 0 → step s = .next
          { s with seq := .exchange t .read, env := { s.env with avails := ks }.did [.avail 0] }) ∧
        (k ≠ 0 → s.env.reads = [] → step s = .next s) ∧
        (k ≠ 0 → ∀ bytes rs, s.env.reads = bytes :: rs → bytes.length ≤ k → step s = .next
          { s with env := { s.env with avails := ks, reads := rs }.did [.avail k, .read k bytes] })) ∧
      (s.cfgDrain = .loop → s.env.avails = [] → ∃ k,
        (k = 0 → step s = .next
          { s with seq := .exchange t .read, env := { s.env with draws := s.env.draws + 1 }.did [.avail 0] }) ∧
        (k ≠ 0 → s.env.reads = [] → step s = .next s) ∧
        (k ≠ 0 → ∀ bytes rs, s.env.reads = bytes :: rs → bytes.length ≤ k → step s = .next
          { s with
            env := { s.env with reads := rs, draws := s.env.draws + 1 }.did [.avail k, .read k bytes] }))) ∧
    (m = .read →
      (s.env.reads = [] → step s = .next s) ∧
      (∀ bytes rs, s.env.reads = bytes :: rs → bytes.length ≤ s.latch.exM.toNat → step s = .next
        { s with
          rxbuf := memWriteList s.rxbuf 0 bytes
          seq := .exchange t .checkR
          latch := { s.latch with exR := BitVec.ofNat 7 bytes.length }
          env := { s.env with reads := rs }.did [.read s.latch.exM.toNat bytes] })) ∧
    (m = .checkR →
      (s.latch.exR ≠ s.latch.exM → step s = .next
        { s with rxbuf := memZero, seq := .check t, latch := { s.latch with exRet := .readError } }) ∧
      (s.latch.exR = s.latch.exM → step s = .next
        { s with seq := .check t, latch := { s.latch with exRet := .ok } }))

/-- From a state that meets the invariant a step is refused only before INIT (R342, D23). -/
def Obligations.OnlyRequestsBeforeInitAreRefused : Prop :=
  ∀ (s : State) (r : Refusal), s.Inv → step s = .refused r →
    r = .notInitialised ∧ s.initDone = false ∧ s.seq = .idle ∧
      ∃ i rest, s.env.requests = i :: rest ∧ isInit i = false

/-- What no step changes: the parameters; CFG_DRAIN, but for a reset, which puts P_DRAIN there (R25, R380); what was
sent stays sent, in order (R72); answers are taken oldest first. -/
def Obligations.StepsOnlyAddPortActions : Prop :=
  ∀ s t : State, step s = .next t →
    t.params = s.params ∧ (s.env.resets.head? ≠ some true → t.cfgDrain = s.cfgDrain) ∧
    (s.env.resets.head? = some true → t.cfgDrain = s.params.drain) ∧ s.env.trace <+: t.env.trace ∧
    t.env.writes <:+ s.env.writes ∧ t.env.avails <:+ s.env.avails ∧ t.env.reads <:+ s.env.reads ∧
    t.env.requests <:+ s.env.requests ∧ t.env.resets = s.env.resets.tail ∧ t.env.delays ≤ s.env.delays ∧
    s.env.draws ≤ t.env.draws

/-- The frame of every bus operation, however far it gets: CFG_BAUD, CFG_DRAIN, INIT_DONE, the parameters and the
requests stay; every port action is one of an exchange: no setting of the link, no delay. -/
def Obligations.BusOperationFrame : Prop :=
  ∀ (i : Instr) (s t : State), usesBus i = true → exec i s = .next t →
    t.cfgBaud = s.cfgBaud ∧ t.cfgDrain = s.cfgDrain ∧ t.initDone = s.initDone ∧ t.params = s.params ∧
    t.env.requests = s.env.requests ∧ t.env.delays = s.env.delays ∧ t.env.resets = s.env.resets ∧
    ∃ made, t.env.trace = s.env.trace ++ made ∧
      ∀ a ∈ made, (∀ d, a ≠ .delay d) ∧ (∀ rate, a ≠ .setBaud rate) ∧ ∀ n p k, a ≠ .setFraming n p k

/-- The frame of INIT and SET_BAUD, however they end: every byte of both buffers stays, no frame is sent or read, no
answer of the transport is taken; SET_BAUD leaves DIR and INIT_DONE too. -/
def Obligations.LinkOperationFrame : Prop :=
  ∀ (i : Instr) (s t : State), usesBus i = false → exec i s = .next t →
    (∀ a, memRead t.txbuf a = memRead s.txbuf a) ∧ (∀ a, memRead t.rxbuf a = memRead s.rxbuf a) ∧
    t.cfgDrain = s.cfgDrain ∧ t.params = s.params ∧ t.env.requests = s.env.requests ∧
    t.env.writes = s.env.writes ∧ t.env.avails = s.env.avails ∧ t.env.reads = s.env.reads ∧
    t.env.draws = s.env.draws ∧ t.env.resets = s.env.resets ∧
    (isInit i = false → t.dir = s.dir ∧ t.initDone = s.initDone)

/-- The result registers of an operation are written when it ends and not before (R72): until then only INVALID_MASK
can have changed, and only in an operation that validates a record (R35). -/
def Obligations.ResultsAreWrittenAtTheEnd : Prop :=
  ∀ (i : Instr) (s t : State), exec i s = .next t → t.seq ≠ .idle →
    t.res.ret = s.res.ret ∧ t.res.outValue = s.res.outValue ∧ t.res.outAlive = s.res.outAlive ∧
    t.res.outRec = s.res.outRec ∧ (validates i = false → t.res.invalidMask = s.res.invalidMask)

/-- An operation depends on nothing an earlier one left in RXBUF, the latches or the result registers (R76): whatever
they hold, it sends the same frames, ends the same way and leaves the same results, and the same RXBUF where it uses
the bus at all. -/
def Obligations.NoResidueBetweenOperations : Prop :=
  ∀ (i : Instr) (s t : State) (m : Memory) (l : Latches) (r : Results), s.seq = .idle → exec i s = .next t →
    ∃ t', exec i { s with rxbuf := m, latch := l, res := r } = .next t' ∧
      t'.env = t.env ∧ t'.seq = t.seq ∧ t'.dir = t.dir ∧ t'.txbuf = t.txbuf ∧ t'.latch = t.latch ∧
      SameConfig t t' ∧ (t.seq = .idle → t'.res = t.res) ∧
      (usesBus i = true → i.wellFormed = true → t'.rxbuf = t.rxbuf) ∧
      (usesBus i = false ∨ i.wellFormed = false → t'.rxbuf = m ∧ t.rxbuf = s.rxbuf)

/-- Every frame the block puts on the bus is one of its command frames, in every sound configuration: the reserved
encodings of R109 are never emitted. -/
def Obligations.ReservedFramesAreNeverEmitted : Prop :=
  ∀ s t : State, s.Inv → s.params.ok = true → s.FramesLegal → step s = .next t → t.FramesLegal

/-- One step is one state of the sequencer (R26, R28): IDLE takes the request at the head of the command port, once
INIT has succeeded (R342, D23), and nothing but the latches, STATE and the port changes; IDLE with no request stays
(R381); outside IDLE the operation in progress does the action of its state, or waits. -/
def Obligations.StepRunsTheRequestedOperation : Prop :=
  ∀ s : State, s.env.resets = [] →
    (∀ i rest, s.seq = .idle → s.env.requests = i :: rest →
      step s = (if isInit i = true ∨ s.initDone = true then .next
          { s with
            latch := latchesFor (requestOf i)
            seq := entryState (requestOf i).op
            env := { s.env with requests := rest } }
        else .refused .notInitialised)) ∧
    (s.seq = .idle → s.env.requests = [] → step s = .next s) ∧
    (∀ i, s.seq ≠ .idle → latchedInstr s = some i →
      (∀ t, statesOf i s = .next t → step s = .next t) ∧
      (statesOf i s = .wait → step s = .next s) ∧
      (∀ f, statesOf i s = .fault f → step s = .fault f))

/-- The steps of a requested operation come to what its execution answers, the first of them taking the request; and
so do the steps from any state inside it. -/
def Obligations.StepsComeToTheOperation : Prop :=
  ∀ (i : Instr) (s : State), s.env.resets = [] →
    (∀ rest, s.seq = .idle → s.env.requests = i :: rest →
      ∃ n, steps (n + 1) s = exec i { s with env := { s.env with requests := rest } }) ∧
    (s.seq ≠ .idle → latchedRequest s = some (requestOf i) → ∃ n, steps n s = exec i s)

/-- A table word placed for the fetch is the operation the next step takes and the steps from there run
(notes/assumptions/5.md). -/
def Obligations.FetchedWordRunsNext : Prop :=
  ∀ (s : State) (nbits w : Nat) (i : Instr), decodeTableWord nbits w = some i →
    let ready : State := { s with seq := .idle, initDone := true, env := { s.env with resets := [] } }
    step (s.withFetchWord nbits w) = .next (accept (requestOf i) ready) ∧
    ∃ n, steps (n + 1) (s.withFetchWord nbits w) = exec i ready
end

