-- ==== Sys2Proof/Laws/State.lean ====
section
/-!
SUPPORT. One lemma per field per update: what each named operation leaves in each field of State. Every proof about
a step rewrites with these and unfolds no record update.
-/

namespace Sys2Proof.Machine

/-! ## emit -/

@[simp] theorem emit_txbuf (a : PortAction) (s : State) : (emit a s).txbuf = s.txbuf := rfl
@[simp] theorem emit_rxbuf (a : PortAction) (s : State) : (emit a s).rxbuf = s.rxbuf := rfl
@[simp] theorem emit_dir (a : PortAction) (s : State) : (emit a s).dir = s.dir := rfl
@[simp] theorem emit_cfgBaud (a : PortAction) (s : State) : (emit a s).cfgBaud = s.cfgBaud := rfl
@[simp] theorem emit_cfgDrain (a : PortAction) (s : State) : (emit a s).cfgDrain = s.cfgDrain := rfl
@[simp] theorem emit_initDone (a : PortAction) (s : State) : (emit a s).initDone = s.initDone := rfl
@[simp] theorem emit_seq (a : PortAction) (s : State) : (emit a s).seq = s.seq := rfl
@[simp] theorem emit_latch (a : PortAction) (s : State) : (emit a s).latch = s.latch := rfl
@[simp] theorem emit_res (a : PortAction) (s : State) : (emit a s).res = s.res := rfl
@[simp] theorem emit_params (a : PortAction) (s : State) : (emit a s).params = s.params := rfl
@[simp] theorem emit_env (a : PortAction) (s : State) : (emit a s).env = { s.env with trace := s.env.trace ++ [a] } := rfl

/-! ## driveDir -/

@[simp] theorem driveDir_txbuf (v : Bool) (s : State) : (driveDir v s).txbuf = s.txbuf := rfl
@[simp] theorem driveDir_rxbuf (v : Bool) (s : State) : (driveDir v s).rxbuf = s.rxbuf := rfl
@[simp] theorem driveDir_dir (v : Bool) (s : State) : (driveDir v s).dir = v := rfl
@[simp] theorem driveDir_cfgBaud (v : Bool) (s : State) : (driveDir v s).cfgBaud = s.cfgBaud := rfl
@[simp] theorem driveDir_cfgDrain (v : Bool) (s : State) : (driveDir v s).cfgDrain = s.cfgDrain := rfl
@[simp] theorem driveDir_initDone (v : Bool) (s : State) : (driveDir v s).initDone = s.initDone := rfl
@[simp] theorem driveDir_seq (v : Bool) (s : State) : (driveDir v s).seq = s.seq := rfl
@[simp] theorem driveDir_latch (v : Bool) (s : State) : (driveDir v s).latch = s.latch := rfl
@[simp] theorem driveDir_res (v : Bool) (s : State) : (driveDir v s).res = s.res := rfl
@[simp] theorem driveDir_params (v : Bool) (s : State) : (driveDir v s).params = s.params := rfl
@[simp] theorem driveDir_env (v : Bool) (s : State) : (driveDir v s).env = { s.env with trace := s.env.trace ++ [.dir v] } := rfl

/-! ## takeWrite, takeAvail -/

@[simp] theorem takeWrite_requests (e : Env) : (takeWrite e).2.requests = e.requests := by cases h : e.writes <;> simp [takeWrite, h]
@[simp] theorem takeWrite_avails (e : Env) : (takeWrite e).2.avails = e.avails := by cases h : e.writes <;> simp [takeWrite, h]
@[simp] theorem takeWrite_reads (e : Env) : (takeWrite e).2.reads = e.reads := by cases h : e.writes <;> simp [takeWrite, h]
@[simp] theorem takeWrite_delays (e : Env) : (takeWrite e).2.delays = e.delays := by cases h : e.writes <;> simp [takeWrite, h]
@[simp] theorem takeWrite_resets (e : Env) : (takeWrite e).2.resets = e.resets := by cases h : e.writes <;> simp [takeWrite, h]
@[simp] theorem takeWrite_trace (e : Env) : (takeWrite e).2.trace = e.trace := by cases h : e.writes <;> simp [takeWrite, h]
@[simp] theorem takeWrite_writes (e : Env) : (takeWrite e).2.writes = e.writes.tail := by cases h : e.writes <;> simp [takeWrite, h]

/-- A listed answer is the one given. -/
theorem takeWrite_cons {e : Env} {w : Nat} {ws : List Nat} (h : e.writes = w :: ws) :
    takeWrite e = (w, { e with writes := ws }) := by simp [takeWrite, h]

@[simp] theorem takeAvail_requests (e : Env) : (takeAvail e).2.requests = e.requests := by cases h : e.avails <;> simp [takeAvail, h]
@[simp] theorem takeAvail_writes (e : Env) : (takeAvail e).2.writes = e.writes := by cases h : e.avails <;> simp [takeAvail, h]
@[simp] theorem takeAvail_reads (e : Env) : (takeAvail e).2.reads = e.reads := by cases h : e.avails <;> simp [takeAvail, h]
@[simp] theorem takeAvail_delays (e : Env) : (takeAvail e).2.delays = e.delays := by cases h : e.avails <;> simp [takeAvail, h]
@[simp] theorem takeAvail_resets (e : Env) : (takeAvail e).2.resets = e.resets := by cases h : e.avails <;> simp [takeAvail, h]
@[simp] theorem takeAvail_trace (e : Env) : (takeAvail e).2.trace = e.trace := by cases h : e.avails <;> simp [takeAvail, h]
@[simp] theorem takeAvail_avails (e : Env) : (takeAvail e).2.avails = e.avails.tail := by cases h : e.avails <;> simp [takeAvail, h]

/-- A listed answer is the one given. -/
theorem takeAvail_cons {e : Env} {k : Nat} {ks : List Nat} (h : e.avails = k :: ks) :
    takeAvail e = (k, { e with avails := ks }) := by simp [takeAvail, h]

/-! ## goto -/

@[simp] theorem goto_txbuf (q : SeqState) (s : State) : (goto q s).txbuf = s.txbuf := rfl
@[simp] theorem goto_rxbuf (q : SeqState) (s : State) : (goto q s).rxbuf = s.rxbuf := rfl
@[simp] theorem goto_dir (q : SeqState) (s : State) : (goto q s).dir = s.dir := rfl
@[simp] theorem goto_cfgBaud (q : SeqState) (s : State) : (goto q s).cfgBaud = s.cfgBaud := rfl
@[simp] theorem goto_cfgDrain (q : SeqState) (s : State) : (goto q s).cfgDrain = s.cfgDrain := rfl
@[simp] theorem goto_initDone (q : SeqState) (s : State) : (goto q s).initDone = s.initDone := rfl
@[simp] theorem goto_seq (q : SeqState) (s : State) : (goto q s).seq = q := rfl
@[simp] theorem goto_latch (q : SeqState) (s : State) : (goto q s).latch = s.latch := rfl
@[simp] theorem goto_res (q : SeqState) (s : State) : (goto q s).res = s.res := rfl
@[simp] theorem goto_params (q : SeqState) (s : State) : (goto q s).params = s.params := rfl
@[simp] theorem goto_env (q : SeqState) (s : State) : (goto q s).env = s.env := rfl

/-! ## accept -/

@[simp] theorem accept_txbuf (r : Request) (s : State) : (accept r s).txbuf = s.txbuf := rfl
@[simp] theorem accept_rxbuf (r : Request) (s : State) : (accept r s).rxbuf = s.rxbuf := rfl
@[simp] theorem accept_dir (r : Request) (s : State) : (accept r s).dir = s.dir := rfl
@[simp] theorem accept_cfgBaud (r : Request) (s : State) : (accept r s).cfgBaud = s.cfgBaud := rfl
@[simp] theorem accept_cfgDrain (r : Request) (s : State) : (accept r s).cfgDrain = s.cfgDrain := rfl
@[simp] theorem accept_initDone (r : Request) (s : State) : (accept r s).initDone = s.initDone := rfl
@[simp] theorem accept_seq (r : Request) (s : State) : (accept r s).seq = entryState r.op := rfl
@[simp] theorem accept_latch (r : Request) (s : State) : (accept r s).latch = latchesFor r := rfl
@[simp] theorem accept_res (r : Request) (s : State) : (accept r s).res = s.res := rfl
@[simp] theorem accept_params (r : Request) (s : State) : (accept r s).params = s.params := rfl
@[simp] theorem accept_env (r : Request) (s : State) : (accept r s).env = s.env := rfl

/-! ## complete -/

@[simp] theorem complete_txbuf (v : BitVec 16) (a : Bool) (r : EepromRecord) (s : State) : (complete v a r s).txbuf = s.txbuf := rfl
@[simp] theorem complete_rxbuf (v : BitVec 16) (a : Bool) (r : EepromRecord) (s : State) : (complete v a r s).rxbuf = s.rxbuf := rfl
@[simp] theorem complete_dir (v : BitVec 16) (a : Bool) (r : EepromRecord) (s : State) : (complete v a r s).dir = s.dir := rfl
@[simp] theorem complete_cfgBaud (v : BitVec 16) (a : Bool) (r : EepromRecord) (s : State) : (complete v a r s).cfgBaud = s.cfgBaud := rfl
@[simp] theorem complete_cfgDrain (v : BitVec 16) (a : Bool) (r : EepromRecord) (s : State) : (complete v a r s).cfgDrain = s.cfgDrain := rfl
@[simp] theorem complete_initDone (v : BitVec 16) (a : Bool) (r : EepromRecord) (s : State) : (complete v a r s).initDone = s.initDone := rfl
@[simp] theorem complete_seq (v : BitVec 16) (a : Bool) (r : EepromRecord) (s : State) : (complete v a r s).seq = .idle := rfl
@[simp] theorem complete_latch (v : BitVec 16) (a : Bool) (r : EepromRecord) (s : State) : (complete v a r s).latch = s.latch := rfl
@[simp] theorem complete_res (v : BitVec 16) (a : Bool) (r : EepromRecord) (s : State) : (complete v a r s).res = { ret := .ok, outValue := v, outAlive := a, outRec := r, invalidMask := finalMask s } := rfl
@[simp] theorem complete_params (v : BitVec 16) (a : Bool) (r : EepromRecord) (s : State) : (complete v a r s).params = s.params := rfl
@[simp] theorem complete_env (v : BitVec 16) (a : Bool) (r : EepromRecord) (s : State) : (complete v a r s).env = s.env := rfl

/-! ## completePlain -/

@[simp] theorem completePlain_txbuf (s : State) : (completePlain s).txbuf = s.txbuf := rfl
@[simp] theorem completePlain_rxbuf (s : State) : (completePlain s).rxbuf = s.rxbuf := rfl
@[simp] theorem completePlain_dir (s : State) : (completePlain s).dir = s.dir := rfl
@[simp] theorem completePlain_cfgBaud (s : State) : (completePlain s).cfgBaud = s.cfgBaud := rfl
@[simp] theorem completePlain_cfgDrain (s : State) : (completePlain s).cfgDrain = s.cfgDrain := rfl
@[simp] theorem completePlain_initDone (s : State) : (completePlain s).initDone = s.initDone := rfl
@[simp] theorem completePlain_seq (s : State) : (completePlain s).seq = .idle := rfl
@[simp] theorem completePlain_latch (s : State) : (completePlain s).latch = s.latch := rfl
@[simp] theorem completePlain_res (s : State) : (completePlain s).res = { ret := .ok, outValue := 0, outAlive := false, outRec := {}, invalidMask := finalMask s } := rfl
@[simp] theorem completePlain_params (s : State) : (completePlain s).params = s.params := rfl
@[simp] theorem completePlain_env (s : State) : (completePlain s).env = s.env := rfl

/-! ## raiseFail -/

@[simp] theorem raiseFail_txbuf (c : RetCode) (s : State) : (raiseFail c s).txbuf = s.txbuf := rfl
@[simp] theorem raiseFail_rxbuf (c : RetCode) (s : State) : (raiseFail c s).rxbuf = s.rxbuf := rfl
@[simp] theorem raiseFail_dir (c : RetCode) (s : State) : (raiseFail c s).dir = s.dir := rfl
@[simp] theorem raiseFail_cfgBaud (c : RetCode) (s : State) : (raiseFail c s).cfgBaud = s.cfgBaud := rfl
@[simp] theorem raiseFail_cfgDrain (c : RetCode) (s : State) : (raiseFail c s).cfgDrain = s.cfgDrain := rfl
@[simp] theorem raiseFail_initDone (c : RetCode) (s : State) : (raiseFail c s).initDone = s.initDone := rfl
@[simp] theorem raiseFail_seq (c : RetCode) (s : State) : (raiseFail c s).seq = .idle := rfl
@[simp] theorem raiseFail_latch (c : RetCode) (s : State) : (raiseFail c s).latch = s.latch := rfl
@[simp] theorem raiseFail_res (c : RetCode) (s : State) : (raiseFail c s).res = { ret := c, outValue := 0, outAlive := false, outRec := {}, invalidMask := finalMask s } := rfl
@[simp] theorem raiseFail_params (c : RetCode) (s : State) : (raiseFail c s).params = s.params := rfl
@[simp] theorem raiseFail_env (c : RetCode) (s : State) : (raiseFail c s).env = s.env := rfl

/-! ## validate -/

@[simp] theorem validate_txbuf (m : ValidationMode) (r : EepromRecord) (s : State) : (validate m r s).txbuf = s.txbuf := rfl
@[simp] theorem validate_rxbuf (m : ValidationMode) (r : EepromRecord) (s : State) : (validate m r s).rxbuf = s.rxbuf := rfl
@[simp] theorem validate_dir (m : ValidationMode) (r : EepromRecord) (s : State) : (validate m r s).dir = s.dir := rfl
@[simp] theorem validate_cfgBaud (m : ValidationMode) (r : EepromRecord) (s : State) : (validate m r s).cfgBaud = s.cfgBaud := rfl
@[simp] theorem validate_cfgDrain (m : ValidationMode) (r : EepromRecord) (s : State) : (validate m r s).cfgDrain = s.cfgDrain := rfl
@[simp] theorem validate_initDone (m : ValidationMode) (r : EepromRecord) (s : State) : (validate m r s).initDone = s.initDone := rfl
@[simp] theorem validate_seq (m : ValidationMode) (r : EepromRecord) (s : State) : (validate m r s).seq = s.seq := rfl
@[simp] theorem validate_latch (m : ValidationMode) (r : EepromRecord) (s : State) : (validate m r s).latch = { s.latch with validated := true } := rfl
@[simp] theorem validate_res (m : ValidationMode) (r : EepromRecord) (s : State) : (validate m r s).res = { s.res with invalidMask := invalidMask m r } := rfl
@[simp] theorem validate_params (m : ValidationMode) (r : EepromRecord) (s : State) : (validate m r s).params = s.params := rfl
@[simp] theorem validate_env (m : ValidationMode) (r : EepromRecord) (s : State) : (validate m r s).env = s.env := rfl

/-! ## callExchange -/

@[simp] theorem callExchange_txbuf (t : Turn) (n m : Nat) (s : State) : (callExchange t n m s).txbuf = s.txbuf := rfl
@[simp] theorem callExchange_rxbuf (t : Turn) (n m : Nat) (s : State) : (callExchange t n m s).rxbuf = s.rxbuf := rfl
@[simp] theorem callExchange_dir (t : Turn) (n m : Nat) (s : State) : (callExchange t n m s).dir = s.dir := rfl
@[simp] theorem callExchange_cfgBaud (t : Turn) (n m : Nat) (s : State) : (callExchange t n m s).cfgBaud = s.cfgBaud := rfl
@[simp] theorem callExchange_cfgDrain (t : Turn) (n m : Nat) (s : State) : (callExchange t n m s).cfgDrain = s.cfgDrain := rfl
@[simp] theorem callExchange_initDone (t : Turn) (n m : Nat) (s : State) : (callExchange t n m s).initDone = s.initDone := rfl
@[simp] theorem callExchange_seq (t : Turn) (n m : Nat) (s : State) : (callExchange t n m s).seq = .exchange t .dirOn := rfl
@[simp] theorem callExchange_latch (t : Turn) (n m : Nat) (s : State) : (callExchange t n m s).latch = { s.latch with exN := BitVec.ofNat 7 n, exM := BitVec.ofNat 7 m } := rfl
@[simp] theorem callExchange_res (t : Turn) (n m : Nat) (s : State) : (callExchange t n m s).res = s.res := rfl
@[simp] theorem callExchange_params (t : Turn) (n m : Nat) (s : State) : (callExchange t n m s).params = s.params := rfl
@[simp] theorem callExchange_env (t : Turn) (n m : Nat) (s : State) : (callExchange t n m s).env = s.env := rfl

/-! ## sendFrame -/

@[simp] theorem sendFrame_txbuf (t : Turn) (f : Frame) (m : Nat) (s : State) : (sendFrame t f m s).txbuf = memWriteList s.txbuf 0 (encodeFrame f) := rfl
@[simp] theorem sendFrame_rxbuf (t : Turn) (f : Frame) (m : Nat) (s : State) : (sendFrame t f m s).rxbuf = s.rxbuf := rfl
@[simp] theorem sendFrame_dir (t : Turn) (f : Frame) (m : Nat) (s : State) : (sendFrame t f m s).dir = s.dir := rfl
@[simp] theorem sendFrame_cfgBaud (t : Turn) (f : Frame) (m : Nat) (s : State) : (sendFrame t f m s).cfgBaud = s.cfgBaud := rfl
@[simp] theorem sendFrame_cfgDrain (t : Turn) (f : Frame) (m : Nat) (s : State) : (sendFrame t f m s).cfgDrain = s.cfgDrain := rfl
@[simp] theorem sendFrame_initDone (t : Turn) (f : Frame) (m : Nat) (s : State) : (sendFrame t f m s).initDone = s.initDone := rfl
@[simp] theorem sendFrame_seq (t : Turn) (f : Frame) (m : Nat) (s : State) : (sendFrame t f m s).seq = .exchange t .dirOn := rfl
@[simp] theorem sendFrame_latch (t : Turn) (f : Frame) (m : Nat) (s : State) : (sendFrame t f m s).latch = { s.latch with exN := BitVec.ofNat 7 (encodeFrame f).length, exM := BitVec.ofNat 7 m } := rfl
@[simp] theorem sendFrame_res (t : Turn) (f : Frame) (m : Nat) (s : State) : (sendFrame t f m s).res = s.res := rfl
@[simp] theorem sendFrame_params (t : Turn) (f : Frame) (m : Nat) (s : State) : (sendFrame t f m s).params = s.params := rfl
@[simp] theorem sendFrame_env (t : Turn) (f : Frame) (m : Nat) (s : State) : (sendFrame t f m s).env = s.env := rfl

/-! ## decodeBlock -/

@[simp] theorem decodeBlock_txbuf (s : State) : (decodeBlock s).txbuf = s.txbuf := rfl
@[simp] theorem decodeBlock_rxbuf (s : State) : (decodeBlock s).rxbuf = s.rxbuf := rfl
@[simp] theorem decodeBlock_dir (s : State) : (decodeBlock s).dir = s.dir := rfl
@[simp] theorem decodeBlock_cfgBaud (s : State) : (decodeBlock s).cfgBaud = s.cfgBaud := rfl
@[simp] theorem decodeBlock_cfgDrain (s : State) : (decodeBlock s).cfgDrain = s.cfgDrain := rfl
@[simp] theorem decodeBlock_initDone (s : State) : (decodeBlock s).initDone = s.initDone := rfl
@[simp] theorem decodeBlock_seq (s : State) : (decodeBlock s).seq = s.seq := rfl
@[simp] theorem decodeBlock_latch (s : State) : (decodeBlock s).latch = { s.latch with record := decodeRecord s.params.layout s.params.flagBits (rxBlock s) } := rfl
@[simp] theorem decodeBlock_res (s : State) : (decodeBlock s).res = s.res := rfl
@[simp] theorem decodeBlock_params (s : State) : (decodeBlock s).params = s.params := rfl
@[simp] theorem decodeBlock_env (s : State) : (decodeBlock s).env = s.env := rfl

/-! ## encodeBlock -/

@[simp] theorem encodeBlock_txbuf (id : Int) (r : EepromRecord) (s : State) : (encodeBlock id r s).txbuf = memWriteList s.txbuf 0 (encodeRecord s.params.layout s.params.flagBits r (rxBlock s) id) := rfl
@[simp] theorem encodeBlock_rxbuf (id : Int) (r : EepromRecord) (s : State) : (encodeBlock id r s).rxbuf = s.rxbuf := rfl
@[simp] theorem encodeBlock_dir (id : Int) (r : EepromRecord) (s : State) : (encodeBlock id r s).dir = s.dir := rfl
@[simp] theorem encodeBlock_cfgBaud (id : Int) (r : EepromRecord) (s : State) : (encodeBlock id r s).cfgBaud = s.cfgBaud := rfl
@[simp] theorem encodeBlock_cfgDrain (id : Int) (r : EepromRecord) (s : State) : (encodeBlock id r s).cfgDrain = s.cfgDrain := rfl
@[simp] theorem encodeBlock_initDone (id : Int) (r : EepromRecord) (s : State) : (encodeBlock id r s).initDone = s.initDone := rfl
@[simp] theorem encodeBlock_seq (id : Int) (r : EepromRecord) (s : State) : (encodeBlock id r s).seq = s.seq := rfl
@[simp] theorem encodeBlock_latch (id : Int) (r : EepromRecord) (s : State) : (encodeBlock id r s).latch = s.latch := rfl
@[simp] theorem encodeBlock_res (id : Int) (r : EepromRecord) (s : State) : (encodeBlock id r s).res = s.res := rfl
@[simp] theorem encodeBlock_params (id : Int) (r : EepromRecord) (s : State) : (encodeBlock id r s).params = s.params := rfl
@[simp] theorem encodeBlock_env (id : Int) (r : EepromRecord) (s : State) : (encodeBlock id r s).env = s.env := rfl

/-! ## takeRequest -/

@[simp] theorem takeRequest_txbuf (s : State) : (takeRequest s).txbuf = s.txbuf := rfl
@[simp] theorem takeRequest_rxbuf (s : State) : (takeRequest s).rxbuf = s.rxbuf := rfl
@[simp] theorem takeRequest_dir (s : State) : (takeRequest s).dir = s.dir := rfl
@[simp] theorem takeRequest_cfgBaud (s : State) : (takeRequest s).cfgBaud = s.cfgBaud := rfl
@[simp] theorem takeRequest_cfgDrain (s : State) : (takeRequest s).cfgDrain = s.cfgDrain := rfl
@[simp] theorem takeRequest_initDone (s : State) : (takeRequest s).initDone = s.initDone := rfl
@[simp] theorem takeRequest_seq (s : State) : (takeRequest s).seq = s.seq := rfl
@[simp] theorem takeRequest_latch (s : State) : (takeRequest s).latch = s.latch := rfl
@[simp] theorem takeRequest_res (s : State) : (takeRequest s).res = s.res := rfl
@[simp] theorem takeRequest_params (s : State) : (takeRequest s).params = s.params := rfl
@[simp] theorem takeRequest_env (s : State) : (takeRequest s).env = { s.env with requests := s.env.requests.tail } := rfl

/-! ## takeReset -/

@[simp] theorem takeReset_txbuf (s : State) : (takeReset s).txbuf = s.txbuf := rfl
@[simp] theorem takeReset_rxbuf (s : State) : (takeReset s).rxbuf = s.rxbuf := rfl
@[simp] theorem takeReset_dir (s : State) : (takeReset s).dir = s.dir := rfl
@[simp] theorem takeReset_cfgBaud (s : State) : (takeReset s).cfgBaud = s.cfgBaud := rfl
@[simp] theorem takeReset_cfgDrain (s : State) : (takeReset s).cfgDrain = s.cfgDrain := rfl
@[simp] theorem takeReset_initDone (s : State) : (takeReset s).initDone = s.initDone := rfl
@[simp] theorem takeReset_seq (s : State) : (takeReset s).seq = s.seq := rfl
@[simp] theorem takeReset_latch (s : State) : (takeReset s).latch = s.latch := rfl
@[simp] theorem takeReset_res (s : State) : (takeReset s).res = s.res := rfl
@[simp] theorem takeReset_params (s : State) : (takeReset s).params = s.params := rfl
@[simp] theorem takeReset_env (s : State) : (takeReset s).env = { s.env with resets := s.env.resets.tail } := rfl

/-- With no reset listed nothing is taken. -/
theorem takeReset_quiet {s : State} (h : s.env.resets = []) : takeReset s = s := by
  have ht : s.env.resets.tail = s.env.resets := by simp [h]
  simp only [takeReset, ht]

/-! ## Views -/

@[simp] theorem busy_iff (s : State) : s.busy = true ↔ s.seq ≠ .idle := by simp [State.busy]

@[simp] theorem rx_goto (q : SeqState) (s : State) (i : Nat) : rx (goto q s) i = rx s i := rfl
@[simp] theorem rx_emit (a : PortAction) (s : State) (i : Nat) : rx (emit a s) i = rx s i := rfl
@[simp] theorem rxBlock_goto (q : SeqState) (s : State) : rxBlock (goto q s) = rxBlock s := rfl
@[simp] theorem rxBlock_emit (a : PortAction) (s : State) : rxBlock (emit a s) = rxBlock s := rfl

@[simp] theorem latchedRequest_accept (r : Request) (s : State) : latchedRequest (accept r s) = some r := rfl

@[simp] theorem latchedInstr_accept (r : Request) (s : State) : latchedInstr (accept r s) = some (instrOf r) := rfl

/-- The request in progress is a view of the latches alone. -/
theorem latchedRequest_congr {s t : State} (h : t.latch = s.latch) : latchedRequest t = latchedRequest s := by
  simp [latchedRequest, h]

/-- The result registers after `checked`: the failure's, or what follows the passed check. -/
theorem checked_ok {α : Type} (a : α) (next : α → State → State) (s : State) :
    checked (.ok a) next s = next a s := rfl

theorem checked_error {α : Type} (c : RetCode) (next : α → State → State) (s : State) :
    checked (.error c) next s = raiseFail c s := rfl

/-! ## Reset -/

@[simp] theorem reset_seq : State.reset.seq = .idle := rfl
@[simp] theorem resetBlock_env (s : State) : (resetBlock s).env = s.env := rfl
@[simp] theorem resetBlock_params (s : State) : (resetBlock s).params = s.params := rfl
@[simp] theorem resetBlock_seq (s : State) : (resetBlock s).seq = .idle := rfl

end Sys2Proof.Machine
end

