-- ==== Sys2Proof/Laws/Memory.lean ====
section
/-!
SUPPORT. The buffers: read after write, the canonical form kept by every memory operation.
-/

namespace Sys2Proof.Machine

@[simp] theorem memRead_zero (a : Nat) : memRead memZero a = 0#8 := rfl

@[simp] theorem memReadList_length (m : Memory) : ∀ n a, (memReadList m a n).length = n
  | 0, _ => rfl
  | n + 1, a => by simp [memReadList, memReadList_length m n (a + 1)]

/-- Below a canonical tail nothing is listed. -/
theorem memRead_below {m : Memory} : ∀ {lo a : Nat}, memWfFrom lo m = true → a < lo → memRead m a = 0#8 := by
  induction m with
  | nil => intros; rfl
  | cons c m ih =>
    obtain ⟨k, b⟩ := c
    intro lo a h ha
    simp only [memWfFrom, Bool.and_eq_true, decide_eq_true_eq] at h
    have hne : a ≠ k := by omega
    simp [memRead, hne, ih h.2 (by omega : a < k + 1)]

theorem memWfFrom_mono {m : Memory} {lo lo' : Nat} (h : memWfFrom lo m = true) (hle : lo' ≤ lo) :
    memWfFrom lo' m = true := by
  cases m with
  | nil => rfl
  | cons c m =>
    obtain ⟨k, b⟩ := c
    simp only [memWfFrom, Bool.and_eq_true, decide_eq_true_eq] at h ⊢
    exact ⟨⟨⟨by omega, h.1.1.2⟩, h.1.2⟩, h.2⟩

/-- One byte written: that address reads it, every other address reads as before. -/
theorem memRead_memWrite_from {m : Memory} : ∀ {lo a : Nat} {v : Byte} (b : Nat), memWfFrom lo m = true →
    memRead (memWrite m a v) b = if b = a then v else memRead m b := by
  induction m with
  | nil =>
    intro lo a v b _
    by_cases hv : v = 0#8 <;> by_cases hb : b = a <;> simp [memWrite, memRead, hv, hb]
  | cons c m ih =>
    obtain ⟨k, x⟩ := c
    intro lo a v b h
    simp only [memWfFrom, Bool.and_eq_true, decide_eq_true_eq] at h
    rcases Nat.lt_trichotomy a k with hak | rfl | hak
    · have hne : a ≠ k := by omega
      by_cases hv : v = 0#8
      · by_cases hb : b = a
        · subst hb
          simp [memWrite, hak, hv, memRead, hne, memRead_below h.2 (by omega : b < k + 1)]
        · simp [memWrite, hak, hv, hb]
      · by_cases hb : b = a <;> simp [memWrite, hak, hv, memRead, hb]
    · by_cases hv : v = 0#8
      · by_cases hb : b = a
        · subst hb
          simp [memWrite, hv, memRead_below h.2 (Nat.lt_succ_self b)]
        · simp [memWrite, hv, memRead, hb]
      · by_cases hb : b = a <;> simp [memWrite, hv, memRead, hb]
    · have h1 : ¬ a < k := by omega
      have h2 : a ≠ k := by omega
      by_cases hb : b = k
      · subst hb
        simp [memWrite, h1, h2, memRead, (Ne.symm h2)]
      · simp [memWrite, h1, h2, memRead, hb, ih b h.2]

theorem memRead_memWrite {m : Memory} (h : m.wf = true) (a b : Nat) (v : Byte) :
    memRead (memWrite m a v) b = if b = a then v else memRead m b := memRead_memWrite_from b h

theorem memWfFrom_memWrite {m : Memory} : ∀ {lo a : Nat} {v : Byte}, memWfFrom lo m = true → lo ≤ a → a < bufLen →
    memWfFrom lo (memWrite m a v) = true := by
  induction m with
  | nil =>
    intro lo a v _ hlo ha
    by_cases hv : v = 0#8 <;> simp [memWrite, memWfFrom, hv, hlo, ha]
  | cons c m ih =>
    obtain ⟨k, x⟩ := c
    intro lo a v h hlo ha
    have h' := h
    simp only [memWfFrom, Bool.and_eq_true, decide_eq_true_eq] at h
    rcases Nat.lt_trichotomy a k with hak | rfl | hak
    · by_cases hv : v = 0#8
      · simpa [memWrite, hak, hv] using h'
      · simp only [memWrite, hak, hv, if_true, if_false, memWfFrom, Bool.and_eq_true, decide_eq_true_eq]
        exact ⟨⟨⟨hlo, ha⟩, hv⟩, ⟨⟨by omega, h.1.1.2⟩, h.1.2⟩, h.2⟩
    · by_cases hv : v = 0#8
      · simpa [memWrite, hv] using memWfFrom_mono h.2 (by omega)
      · simp only [memWrite, hv, lt_irrefl, if_true, if_false, memWfFrom, Bool.and_eq_true, decide_eq_true_eq]
        exact ⟨⟨⟨hlo, ha⟩, hv⟩, h.2⟩
    · have h1 : ¬ a < k := by omega
      have h2 : a ≠ k := by omega
      simp only [memWrite, h1, h2, if_false, memWfFrom, Bool.and_eq_true, decide_eq_true_eq]
      exact ⟨⟨⟨h.1.1.1, h.1.1.2⟩, h.1.2⟩, ih h.2 (by omega) ha⟩

/-- A byte written inside the buffer keeps the canonical form. -/
theorem memWrite_wf {m : Memory} (h : m.wf = true) {a : Nat} (ha : a < bufLen) (v : Byte) :
    (memWrite m a v).wf = true := memWfFrom_memWrite h (Nat.zero_le a) ha

/-- Consecutive bytes written inside the buffer keep the canonical form. -/
theorem memWriteList_wf {bs : List Byte} : ∀ {m : Memory} {a : Nat}, m.wf = true → a + bs.length ≤ bufLen →
    (memWriteList m a bs).wf = true := by
  induction bs with
  | nil => intro m a h _; exact h
  | cons b bs ih =>
    intro m a h hlen
    simp only [List.length_cons] at hlen
    exact ih (memWrite_wf h (by omega) b) (by omega)

theorem memZero_wf : memZero.wf = true := rfl

/-- Consecutive bytes written: each address of the run reads its byte, every other address reads as before. -/
theorem memRead_memWriteList {bs : List Byte} : ∀ {m : Memory} {a : Nat}, m.wf = true → a + bs.length ≤ bufLen →
    ∀ b, memRead (memWriteList m a bs) b =
      if a ≤ b ∧ b < a + bs.length then bs.getD (b - a) 0#8 else memRead m b := by
  induction bs with
  | nil =>
    intro m a _ _ b
    have : ¬ (a ≤ b ∧ b < a + 0) := by omega
    simp [memWriteList]
  | cons v bs ih =>
    intro m a h hlen b
    simp only [List.length_cons] at hlen
    rw [memWriteList, ih (memWrite_wf h (by omega) v) (by omega) b, memRead_memWrite h]
    by_cases hb : b = a
    · subst hb
      simp
    · by_cases hin : a + 1 ≤ b ∧ b < a + 1 + bs.length
      · have h2 : a ≤ b ∧ b < a + (bs.length + 1) := by omega
        have h3 : b - a = (b - (a + 1)) + 1 := by omega
        simp only [List.length_cons, if_pos hin, if_pos h2]
        rw [h3, List.getD_cons_succ]
      · have h2 : ¬ (a ≤ b ∧ b < a + (bs.length + 1)) := by omega
        have h4 : ¬ (a + 1 ≤ b ∧ b < a + 1 + bs.length) := hin
        simp only [List.length_cons, if_neg h4, if_neg h2, if_neg hb]

/-- A list read from a run of addresses is decided by those addresses alone. -/
theorem memReadList_eq {m : Memory} {bs : List Byte} : ∀ {a : Nat},
    (∀ i, i < bs.length → memRead m (a + i) = bs.getD i 0#8) → memReadList m a bs.length = bs := by
  induction bs with
  | nil => intros; rfl
  | cons b bs ih =>
    intro a h
    have h0 := h 0 (by simp)
    simp only [Nat.add_zero, List.getD_cons_zero] at h0
    have ht := ih (a := a + 1) fun i hi => by
      have := h (i + 1) (by simp; omega)
      simpa [Nat.add_assoc, Nat.add_comm 1 i] using this
    simp [memReadList, h0, ht]

/-- A list written and read back. -/
theorem memReadList_memWriteList {m : Memory} {a : Nat} {bs : List Byte} (h : m.wf = true)
    (hlen : a + bs.length ≤ bufLen) : memReadList (memWriteList m a bs) a bs.length = bs := by
  refine memReadList_eq fun i hi => ?_
  rw [memRead_memWriteList h hlen]
  have : a ≤ a + i ∧ a + i < a + bs.length := by omega
  simp [this]

@[simp] theorem rxBlock_length (s : State) : (rxBlock s).length = 66 := by simp [rxBlock, bufLen]

end Sys2Proof.Machine
end

