-- ==== Sys2Proof/Laws/Codec.lean ====
section
/-!
SUPPORT. The codec on frames as lists: every write keeps the frame's length, a group written reads back its value, and
reads are decided by the group's own bytes.
-/

namespace Sys2Proof.Machine

/-! ## Bytes of a frame -/

theorem getD_set (l : List Byte) (i j : Nat) (v : Byte) :
    (l.set i v).getD j 0#8 = if i = j ∧ i < l.length then v else l.getD j 0#8 := by
  simp only [List.getD_eq_getElem?_getD, List.getElem?_set]
  by_cases h : i = j
  · subst h
    by_cases hl : i < l.length
    · simp [hl]
    · simp [hl]
  · simp [h]

@[simp] theorem put8_length (frame : List Byte) (off v : Nat) : (put8 frame off v).length = frame.length := by
  simp [put8]

@[simp] theorem put16_length (frame : List Byte) (off v : Nat) : (put16 frame off v).length = frame.length := by
  simp [put16]

@[simp] theorem putGroup_length (l : Layout) (frame : List Byte) (g : Group) (v : Nat) :
    (putGroup l frame g v).length = frame.length := by
  cases g <;> simp [putGroup]

@[simp] theorem encodeGroup_length (l : Layout) (b : FlagBits) (r : EepromRecord) (base frame : List Byte) (g : Group) :
    (encodeGroup l b r base frame g).length = frame.length := by
  unfold encodeGroup
  split <;> simp

@[simp] theorem writeHeader_length (base : List Byte) (id : Int) : (writeHeader base id).length = base.length := by
  simp [writeHeader]

theorem foldl_encodeGroup_length (l : Layout) (b : FlagBits) (r : EepromRecord) (base : List Byte) :
    ∀ (gs : List Group) (frame : List Byte), (gs.foldl (encodeGroup l b r base) frame).length = frame.length
  | [], _ => rfl
  | g :: gs, frame => by rw [List.foldl_cons, foldl_encodeGroup_length l b r base gs]; simp

/-- The write frame is as long as its baseline. -/
@[simp] theorem encodeRecord_length (l : Layout) (b : FlagBits) (r : EepromRecord) (base : List Byte) (id : Int) :
    (encodeRecord l b r base id).length = base.length := by
  simp [encodeRecord, foldl_encodeGroup_length]

/-! ## The nibble code -/

/-- The nibble code gives back any value of at most three nibbles (R230, R231). -/
theorem combine_split {v : Nat} (h : v < 4096) : combine (split v).1 (split v).2 = v := by
  have h1 : v >>> 4 < 256 := by rw [Nat.shiftRight_eq_div_pow]; omega
  have h2 : v &&& 0x0F < 16 := Nat.lt_of_le_of_lt Nat.and_le_right (by omega)
  have h3 : v &&& 0x0F = v % 16 := Nat.and_two_pow_sub_one_eq_mod v 4
  simp only [combine, split, BitVec.toNat_ofNat, Nat.reducePow, Nat.mod_eq_of_lt h1,
    Nat.mod_eq_of_lt (show v &&& 15 < 256 by omega)]
  rw [← Nat.shiftLeft_add_eq_or_of_lt (i := 4) (by simpa using h2), Nat.shiftLeft_eq, Nat.shiftRight_eq_div_pow]
  omega

/-! ## A group written and read -/

theorem get8_put8_same {frame : List Byte} {off v : Nat} (hoff : off + 2 ≤ frame.length) (hv : v < 4096) :
    get8 (put8 frame off v) off = v := by
  have h1 : off < frame.length := by omega
  have h2 : off + 1 < frame.length := by omega
  simp [get8, put8, frameByte, h1, h2, combine_split hv]

theorem get8_put8_apart {frame : List Byte} {off off' v : Nat} (h : off + 2 ≤ off' ∨ off' + 2 ≤ off) :
    get8 (put8 frame off v) off' = get8 frame off' := by
  have h1 : off ≠ off' := by omega
  have h2 : off + 1 ≠ off' := by omega
  have h3 : off ≠ off' + 1 := by omega
  have h4 : off + 1 ≠ off' + 1 := by omega
  simp [get8, put8, frameByte, h1, h2, h3]

theorem get16_put16_same {frame : List Byte} {off v : Nat} (hoff : off + 4 ≤ frame.length) (hv : v < 65536) :
    get16 (put16 frame off v) off = v := by
  have h1 : v >>> 8 < 256 := by rw [Nat.shiftRight_eq_div_pow]; omega
  have h2 : v &&& 0xFF < 256 := Nat.lt_of_le_of_lt Nat.and_le_right (by omega)
  have h3 : v &&& 0xFF = v % 256 := Nat.and_two_pow_sub_one_eq_mod v 8
  unfold get16 put16
  rw [get8_put8_apart (by omega), get8_put8_same (by omega) (by omega),
    get8_put8_same (by simp; omega) (by omega),
    ← Nat.shiftLeft_add_eq_or_of_lt (i := 8) (by simpa using h2), Nat.shiftLeft_eq, Nat.shiftRight_eq_div_pow]
  omega

/-- A group's least value that its bytes cannot hold as one (R232, R233). -/
def groupBound : Group → Nat
  | .poslimithigh => 65536
  | .poslimitlow => 65536
  | _ => 4096

/-- A group written inside the frame reads back its value. -/
theorem getGroup_putGroup_same {l : Layout} {frame : List Byte} {g : Group} {v : Nat}
    (hoff : l.off g + g.size ≤ frame.length) (hv : v < groupBound g) : getGroup l (putGroup l frame g v) g = v := by
  cases g
  case poslimithigh => exact get16_put16_same hoff hv
  case poslimitlow => exact get16_put16_same hoff hv
  all_goals exact get8_put8_same hoff hv

/-- A frame's group is decided by its own bytes. -/
theorem getGroup_congr {l : Layout} {frame frame' : List Byte} {g : Group}
    (h : ∀ k, l.off g ≤ k → k < l.off g + g.size → frame.getD k 0#8 = frame'.getD k 0#8) :
    getGroup l frame g = getGroup l frame' g := by
  cases g
  case poslimithigh =>
    simp only [Layout.off, Group.size] at h
    simp only [getGroup, get16, get8, frameByte]
    simp (disch := omega) only [h]
  case poslimitlow =>
    simp only [Layout.off, Group.size] at h
    simp only [getGroup, get16, get8, frameByte]
    simp (disch := omega) only [h]
  all_goals
    simp only [Group.size] at h
    simp only [getGroup, get8, frameByte]
    simp (disch := omega) only [h]

/-- A group write leaves every byte outside the group. -/
theorem getD_putGroup_outside {l : Layout} {frame : List Byte} {g : Group} {v k : Nat}
    (h : ¬ (l.off g ≤ k ∧ k < l.off g + g.size)) : (putGroup l frame g v).getD k 0#8 = frame.getD k 0#8 := by
  cases g
  case poslimithigh =>
    simp only [Layout.off, Group.size] at h
    have h0 : l.poslimithigh ≠ k := by omega
    have h1 : l.poslimithigh + 1 ≠ k := by omega
    have h2 : l.poslimithigh + 2 ≠ k := by omega
    have h3 : l.poslimithigh + 2 + 1 ≠ k := by omega
    simp [putGroup, put16, put8, h0, h1, h2, h3]
  case poslimitlow =>
    simp only [Layout.off, Group.size] at h
    have h0 : l.poslimitlow ≠ k := by omega
    have h1 : l.poslimitlow + 1 ≠ k := by omega
    have h2 : l.poslimitlow + 2 ≠ k := by omega
    have h3 : l.poslimitlow + 2 + 1 ≠ k := by omega
    simp [putGroup, put16, put8, h0, h1, h2, h3]
  all_goals
    simp only [Group.size] at h
    simp only [putGroup, put8, getD_set]
    rw [if_neg (by omega), if_neg (by omega)]

/-! ## A layout that meets R122 -/

theorem group_mem_all (g : Group) : g ∈ Group.all := by cases g <;> decide

theorem layout_ok_bounds {l : Layout} (h : l.ok = true) (g : Group) : 4 ≤ l.off g ∧ l.off g + g.size ≤ 66 := by
  simp only [Layout.ok, List.all_eq_true, Bool.and_eq_true, decide_eq_true_eq] at h
  exact (h g (group_mem_all g)).1

theorem layout_ok_apart {l : Layout} (h : l.ok = true) {g g' : Group} (hne : g ≠ g') :
    l.off g + g.size ≤ l.off g' ∨ l.off g' + g'.size ≤ l.off g := by
  simp only [Layout.ok, List.all_eq_true, Bool.and_eq_true, Bool.or_eq_true, decide_eq_true_eq, Layout.apart] at h
  exact ((h g (group_mem_all g)).2 g' (group_mem_all g')).resolve_left hne

/-! ## The encoder's loop -/

theorem getD_encodeGroup_outside {l : Layout} {b : FlagBits} {r : EepromRecord} {base frame : List Byte} {g : Group}
    {k : Nat} (h : (groupValue l b r base g).isSome = true → ¬ (l.off g ≤ k ∧ k < l.off g + g.size)) :
    (encodeGroup l b r base frame g).getD k 0#8 = frame.getD k 0#8 := by
  unfold encodeGroup
  split
  · rename_i v hv
    exact getD_putGroup_outside (h (by simp [hv]))
  · rfl

/-- A byte outside every group the record writes stays as it is. -/
theorem getD_foldl_encodeGroup {l : Layout} {b : FlagBits} {r : EepromRecord} {base : List Byte} {k : Nat} :
    ∀ (gs : List Group) (frame : List Byte),
      (∀ g ∈ gs, (groupValue l b r base g).isSome = true → ¬ (l.off g ≤ k ∧ k < l.off g + g.size)) →
      (gs.foldl (encodeGroup l b r base) frame).getD k 0#8 = frame.getD k 0#8
  | [], _, _ => rfl
  | g :: gs, frame, h => by
    rw [List.foldl_cons, getD_foldl_encodeGroup gs _ fun g' hg' => h g' (by simp [hg']),
      getD_encodeGroup_outside (h g (by simp))]

/-- A group the loop has no turn for keeps its value. -/
theorem getGroup_foldl_encodeGroup {l : Layout} (hl : l.ok = true) {b : FlagBits} {r : EepromRecord}
    {base : List Byte} {g : Group} (gs : List Group) (hg : g ∉ gs) (frame : List Byte) :
    getGroup l (gs.foldl (encodeGroup l b r base) frame) g = getGroup l frame g :=
  getGroup_congr fun k h1 h2 => getD_foldl_encodeGroup gs frame fun g' hg' _ h3 => by
    have hne : g ≠ g' := fun he => hg (he ▸ hg')
    rcases layout_ok_apart hl hne with h | h <;> omega

theorem group_all_split (g : Group) : ∃ before after, Group.all = before ++ g :: after ∧ g ∉ before ∧ g ∉ after := by
  refine ⟨Group.all.takeWhile (· ≠ g), (Group.all.dropWhile (· ≠ g)).tail, ?_⟩
  cases g <;> decide

/-- The value of every group in the write frame: what the record asks for, else the baseline's (R260, R268). -/
theorem getGroup_encodeRecord {l : Layout} (hl : l.ok = true) {b : FlagBits} {r : EepromRecord} {base : List Byte}
    (hbase : base.length = 66) {g : Group} (hv : ∀ v, groupValue l b r base g = some v → v < groupBound g) (id : Int) :
    getGroup l (encodeRecord l b r base id) g = (groupValue l b r base g).getD (getGroup l base g) := by
  obtain ⟨before, after, hall, hb, ha⟩ := group_all_split g
  have hbounds := layout_ok_bounds hl g
  have hheader : getGroup l (writeHeader base id) g = getGroup l base g :=
    getGroup_congr fun k h1 _ => by
      have h0 : ¬ (0 = k) := by omega
      have h1' : ¬ (1 = k) := by omega
      simp [writeHeader, h0, h1']
  unfold encodeRecord
  rw [hall, List.foldl_append, List.foldl_cons, getGroup_foldl_encodeGroup hl after ha]
  have hbefore := getGroup_foldl_encodeGroup (b := b) (r := r) (base := base) hl before hb (writeHeader base id)
  rw [hheader] at hbefore
  have hlen := foldl_encodeGroup_length l b r base before (writeHeader base id)
  rw [writeHeader_length, hbase] at hlen
  generalize before.foldl (encodeGroup l b r base) (writeHeader base id) = frame at hbefore hlen
  unfold encodeGroup
  cases hgv : groupValue l b r base g with
  | some v => exact getGroup_putGroup_same (by rw [hlen]; exact hbounds.2) (hv v hgv)
  | none => exact hbefore

end Sys2Proof.Machine
end

