-- ==== Sys2Proof/Laws/Sequencer.lean ====
section
/-!
SUPPORT. The driver and the exchange, once each: how a run unrolls, what every run keeps, when a run ends, what an
operation's outcome can be, and what a whole EXCHANGE does with a transport that answers it.
-/

namespace Sys2Proof.Machine

/-! ## The driver -/

theorem drive_idle {prog : State → Micro} {s : State} (h : s.seq = .idle) : ∀ n, drive prog n s = .next s
  | 0 => rfl
  | n + 1 => by simp [drive, h]

theorem drive_next {prog : State → Micro} {s s' : State} (hi : s.seq ≠ .idle) (h : prog s = .next s') (n : Nat) :
    drive prog (n + 1) s = drive prog n s' := by simp [drive, hi, h]

theorem drive_wait {prog : State → Micro} {s : State} (h : prog s = .wait) : ∀ n, drive prog n s = .next s
  | 0 => rfl
  | n + 1 => by by_cases hi : s.seq = .idle <;> simp [drive, hi, h]

/-- What every sequencer state of an operation keeps, its run keeps. -/
theorem drive_keeps {prog : State → Micro} {P : State → Prop}
    (hstep : ∀ s s', P s → s.seq ≠ .idle → prog s = .next s' → P s') :
    ∀ {n : Nat} {s t : State}, P s → drive prog n s = .next t → P t := by
  intro n
  induction n with
  | zero =>
    intro s t hs h
    simp only [drive, Host.Outcome.next.injEq] at h
    exact h ▸ hs
  | succ n ih =>
    intro s t hs h
    by_cases hi : s.seq = .idle
    · rw [drive_idle hi] at h
      exact (Host.Outcome.next.inj h) ▸ hs
    · cases hp : prog s with
      | next s' => exact ih (hstep s s' hs hi hp) (by rwa [drive_next hi hp] at h)
      | wait =>
        rw [drive_wait hp] at h
        exact (Host.Outcome.next.inj h) ▸ hs
      | fault f => simp [drive, hi, hp] at h

/-- A run of states that never fault answers a next state. -/
theorem drive_answers {prog : State → Micro} {P : State → Prop}
    (hstep : ∀ s s', P s → s.seq ≠ .idle → prog s = .next s' → P s')
    (hfault : ∀ s f, P s → s.seq ≠ .idle → prog s ≠ .fault f) :
    ∀ {n : Nat} {s : State}, P s → ∃ t, drive prog n s = .next t := by
  intro n
  induction n with
  | zero => intro s _; exact ⟨s, rfl⟩
  | succ n ih =>
    intro s hs
    by_cases hi : s.seq = .idle
    · exact ⟨s, drive_idle hi _⟩
    · cases hp : prog s with
      | next s' => rw [drive_next hi hp]; exact ih (hstep s s' hs hi hp)
      | wait => exact ⟨s, drive_wait hp _⟩
      | fault f => exact absurd hp (hfault s f hs hi)

/-- A run long enough for a measure that every state lowers ends in IDLE or at a wait. -/
theorem drive_ends {prog : State → Micro} {P : State → Prop} (μ : State → Nat)
    (hstep : ∀ s s', P s → s.seq ≠ .idle → prog s = .next s' → P s' ∧ μ s' < μ s) :
    ∀ {n : Nat} {s t : State}, P s → μ s < n → drive prog n s = .next t → t.seq = .idle ∨ prog t = .wait := by
  intro n
  induction n with
  | zero => intro s t _ hμ; omega
  | succ n ih =>
    intro s t hs hμ h
    by_cases hi : s.seq = .idle
    · rw [drive_idle hi] at h
      exact .inl ((Host.Outcome.next.inj h) ▸ hi)
    · cases hp : prog s with
      | next s' =>
        have hk := hstep s s' hs hi hp
        exact ih hk.1 (by omega) (by rwa [drive_next hi hp] at h)
      | wait =>
        rw [drive_wait hp] at h
        exact .inr ((Host.Outcome.next.inj h) ▸ hp)
      | fault f => simp [drive, hi, hp] at h

/-- What an operation's run can be (R342, R347): refused before INIT, run from its first state, gone on with, or a
request that a busy block does not accept. -/
theorem operate_cases {r : Request} {prog : State → Micro} {s : State} {o : Outcome} (h : operate r prog s = o) :
    (s.seq = .idle ∧ r.op ≠ .init ∧ s.initDone = false ∧ o = .refused .notInitialised) ∨
    (s.seq = .idle ∧ (r.op = .init ∨ s.initDone = true) ∧ o = drive prog (driveBound s) (accept r s)) ∨
    (s.seq ≠ .idle ∧ latchedRequest s = some r ∧ o = drive prog (driveBound s) s) ∨
    (s.seq ≠ .idle ∧ latchedRequest s ≠ some r ∧ o = .next s) := by
  subst h
  unfold operate
  by_cases hi : s.seq = .idle
  · by_cases hr : r.op = .init ∨ s.initDone = true
    · exact .inr (.inl ⟨hi, hr, by simp [hi, hr]⟩)
    · have hr' := hr
      simp only [not_or, Bool.not_eq_true] at hr'
      exact .inl ⟨hi, hr'.1, hr'.2, by simp [hi, hr]⟩
  · by_cases hl : latchedRequest s = some r
    · exact .inr (.inr (.inl ⟨hi, hl, by simp [hi, hl]⟩))
    · exact .inr (.inr (.inr ⟨hi, hl, by simp [hi, hl]⟩))

/-- A ready block runs the operation from its first state. -/
theorem operate_ready {r : Request} {prog : State → Micro} {s : State} (hi : s.seq = .idle)
    (hr : r.op = .init ∨ s.initDone = true) : operate r prog s = drive prog (driveBound s) (accept r s) := by
  simp [operate, hi, hr]

/-! ## The exchange -/

/-- What one EXCHANGE state can do when it moves on (R141), guards included. -/
theorem exchangeStep_cases {t : Turn} {m : ExState} {s s' : State} (h : exchangeStep t m s = .next s') :
    (m = .dirOn ∧ s' = goto (.exchange t .write) (driveDir true s)) ∨
    (m = .write ∧ exLength s.latch.exN = true ∧
      s' = goto (.exchange t .dirOff)
        (emit (.write (memReadList s.txbuf 0 s.latch.exN.toNat) (min (takeWrite s.env).1 s.latch.exN.toNat))
          { s with
            latch := { s.latch with exW := BitVec.ofNat 7 (min (takeWrite s.env).1 s.latch.exN.toNat) }
            env := (takeWrite s.env).2 })) ∨
    (m = .dirOff ∧ s' = goto (.exchange t .zeroTx) (driveDir false s)) ∨
    (m = .zeroTx ∧ s' = goto (.exchange t .checkW) { s with txbuf := memZero }) ∨
    (m = .checkW ∧ s.latch.exW ≠ s.latch.exN ∧
      s' = goto (.check t) { s with rxbuf := memZero, latch := { s.latch with exRet := .writeError } }) ∨
    (m = .checkW ∧ s.latch.exW = s.latch.exN ∧ s' = goto (.exchange t .zeroRx) s) ∨
    (m = .zeroRx ∧ s' = goto (.exchange t .drain) { s with rxbuf := memZero }) ∨
    (m = .drain ∧ s.cfgDrain = .off ∧ s' = goto (.exchange t .read) s) ∨
    (m = .drain ∧ s.cfgDrain = .loop ∧ (takeAvail s.env).1 = 0 ∧
      s' = goto (.exchange t .read) (emit (.avail 0) { s with env := (takeAvail s.env).2 })) ∨
    (m = .drain ∧ s.cfgDrain = .loop ∧ (takeAvail s.env).1 ≠ 0 ∧ ∃ bytes rs, s.env.reads = bytes :: rs ∧
      s' = emit (.read (takeAvail s.env).1 (bytes.take (takeAvail s.env).1)) (emit (.avail (takeAvail s.env).1)
        { s with env := { (takeAvail s.env).2 with reads := rs } })) ∨
    (m = .read ∧ exLength s.latch.exM = true ∧ ∃ bytes rs, s.env.reads = bytes :: rs ∧
      s' = goto (.exchange t .checkR)
        (emit (.read s.latch.exM.toNat (bytes.take s.latch.exM.toNat))
          { s with
            rxbuf := memWriteList s.rxbuf 0 (bytes.take s.latch.exM.toNat)
            latch := { s.latch with exR := BitVec.ofNat 7 (bytes.take s.latch.exM.toNat).length }
            env := { s.env with reads := rs } })) ∨
    (m = .checkR ∧ s.latch.exR ≠ s.latch.exM ∧
      s' = goto (.check t) { s with rxbuf := memZero, latch := { s.latch with exRet := .readError } }) ∨
    (m = .checkR ∧ s.latch.exR = s.latch.exM ∧
      s' = goto (.check t) { s with latch := { s.latch with exRet := .ok } }) := by
  cases m with
  | dirOn => exact .inl ⟨rfl, (Micro.next.inj h).symm⟩
  | write =>
    simp only [exchangeStep, exWrite] at h
    split at h
    · exact .inr (.inl ⟨rfl, ‹_›, (Micro.next.inj h).symm⟩)
    · cases h
  | dirOff => exact .inr (.inr (.inl ⟨rfl, (Micro.next.inj h).symm⟩))
  | zeroTx => exact .inr (.inr (.inr (.inl ⟨rfl, (Micro.next.inj h).symm⟩)))
  | checkW =>
    simp only [exchangeStep, exCheckW] at h
    split at h
    · iterate 4 right
      exact .inl ⟨rfl, ‹_›, (Micro.next.inj h).symm⟩
    · iterate 5 right
      exact .inl ⟨rfl, not_not.mp ‹_›, (Micro.next.inj h).symm⟩
  | zeroRx =>
    iterate 6 right
    exact .inl ⟨rfl, (Micro.next.inj h).symm⟩
  | drain =>
    simp only [exchangeStep, exDrain] at h
    split at h
    · iterate 7 right
      exact .inl ⟨rfl, ‹_›, (Micro.next.inj h).symm⟩
    · split at h
      · iterate 8 right
        exact .inl ⟨rfl, ‹_›, ‹_›, (Micro.next.inj h).symm⟩
      · split at h
        · cases h
        · iterate 9 right
          exact .inl ⟨rfl, ‹_›, ‹_›, _, _, ‹_›, (Micro.next.inj h).symm⟩
  | read =>
    simp only [exchangeStep, exRead] at h
    split at h
    · split at h
      · cases h
      · iterate 10 right
        exact .inl ⟨rfl, ‹_›, _, _, ‹_›, (Micro.next.inj h).symm⟩
    · cases h
  | checkR =>
    simp only [exchangeStep, exCheckR] at h
    split at h
    · iterate 11 right
      exact .inl ⟨rfl, ‹_›, (Micro.next.inj h).symm⟩
    · iterate 12 right
      exact ⟨rfl, not_not.mp ‹_›, (Micro.next.inj h).symm⟩

/-- The port actions of an EXCHANGE with an offer, up to the read. -/
def actionsBeforeRead (d : Drain) (command : List Byte) (o : Offer) : List PortAction :=
  [.dir true, .write command command.length, .dir false] ++
    (match d with
      | .off => []
      | .loop => o.stale.flatMap (fun p => [.avail p.1, .read p.1 (p.2.take p.1)]) ++ [.avail 0])

/-- An EXCHANGE that has written its whole command and drained, about to read (R141 E8). -/
def exchangeReading (t : Turn) (command : List Byte) (o : Offer) (e : Env) (s : State) : State :=
  { s with
    txbuf := memZero
    rxbuf := memZero
    dir := false
    seq := .exchange t .read
    latch := { s.latch with exW := s.latch.exN }
    env := { e with
      reads := o.response :: e.reads
      trace := e.trace ++ actionsBeforeRead s.cfgDrain command o } }

/-- The state after an EXCHANGE that the transport answers whole (R143, the Ok row). -/
def exchangeDone (t : Turn) (command : List Byte) (o : Offer) (e : Env) (s : State) : State :=
  { s with
    txbuf := memZero
    rxbuf := memWriteList memZero 0 o.response
    dir := false
    seq := .check t
    latch := { s.latch with exW := s.latch.exN, exR := s.latch.exM, exRet := .ok }
    env := e.did (o.actions s.cfgDrain command s.latch.exM.toNat) }

/-- The state after an EXCHANGE whose read is short (R143, the ReadError row). -/
def exchangeShortRead (t : Turn) (command : List Byte) (o : Offer) (e : Env) (s : State) : State :=
  { s with
    txbuf := memZero
    rxbuf := memZero
    dir := false
    seq := .check t
    latch := { s.latch with
      exW := s.latch.exN, exR := BitVec.ofNat 7 o.response.length, exRet := .readError }
    env := e.did (o.actions s.cfgDrain command s.latch.exM.toNat) }

/-! What an offer leaves of the outside it stands before. -/

@[simp] theorem before_requests (d : Drain) (n : Nat) (o : Offer) (e : Env) : (o.before d n e).requests = e.requests := by
  cases d <;> rfl
@[simp] theorem before_delays (d : Drain) (n : Nat) (o : Offer) (e : Env) : (o.before d n e).delays = e.delays := by
  cases d <;> rfl
@[simp] theorem before_resets (d : Drain) (n : Nat) (o : Offer) (e : Env) : (o.before d n e).resets = e.resets := by
  cases d <;> rfl
@[simp] theorem before_draws (d : Drain) (n : Nat) (o : Offer) (e : Env) : (o.before d n e).draws = e.draws := by
  cases d <;> rfl
@[simp] theorem before_trace (d : Drain) (n : Nat) (o : Offer) (e : Env) : (o.before d n e).trace = e.trace := by
  cases d <;> rfl

/-- The drain loop over the stale bytes of an offer. -/
theorem drive_drain {prog : State → Micro} {t : Turn}
    (hprog : ∀ u m, u.seq = .exchange t m → prog u = exchangeStep t m u) (ks : List Nat) (rs : List (List Byte)) :
    ∀ (stale : List (Nat × List Byte)) (s : State), (∀ p ∈ stale, p.1 ≠ 0) → s.seq = .exchange t .drain →
      s.cfgDrain = .loop → s.env.avails = stale.map Prod.fst ++ 0 :: ks →
      s.env.reads = stale.map Prod.snd ++ rs → ∀ n,
      drive prog (n + (stale.length + 1)) s = drive prog n (goto (.exchange t .read) { s with env := { s.env with
        avails := ks
        reads := rs
        trace := s.env.trace ++
          (stale.flatMap (fun p => [.avail p.1, .read p.1 (p.2.take p.1)]) ++ [.avail 0]) } }) := by
  intro stale
  induction stale with
  | nil =>
    intro s _ hs hd ha hr n
    have hp : prog s = .next (goto (.exchange t .read) (emit (.avail 0) { s with env := { s.env with avails := ks } })) := by
      simp only [List.map_nil, List.nil_append] at ha
      simp [hprog s _ hs, exchangeStep, exDrain, hd, takeAvail_cons ha]
    simp only [List.map_nil, List.nil_append] at hr
    rw [List.length_nil, Nat.zero_add, drive_next (by simp [hs]) hp]
    simp [goto, emit, hr]
  | cons p stale ih =>
    intro s hz hs hd ha hr n
    have hp0 : p.1 ≠ 0 := hz p (by simp)
    simp only [List.map_cons, List.cons_append] at ha hr
    have hp : prog s = .next (emit (.read p.1 (p.2.take p.1)) (emit (.avail p.1)
        { s with env := { s.env with avails := stale.map Prod.fst ++ 0 :: ks, reads := stale.map Prod.snd ++ rs } })) := by
      simp [hprog s _ hs, exchangeStep, exDrain, hd, takeAvail_cons ha, hr, hp0]
    rw [List.length_cons, ← Nat.add_assoc, drive_next (by simp [hs]) hp,
      ih _ (fun q hq => hz q (by simp [hq])) (by simpa using hs) (by simpa using hd) rfl rfl]
    simp [goto, emit]

/-- An EXCHANGE up to its read, inside the run of any operation that gives its exchange states their meaning. -/
theorem drive_exchange_reading {prog : State → Micro} {t : Turn}
    (hprog : ∀ u m, u.seq = .exchange t m → prog u = exchangeStep t m u) {s : State} {command : List Byte}
    {o : Offer} {e : Env} (hs : s.seq = .exchange t .dirOn) (hn : exLength s.latch.exN = true)
    (hc : memReadList s.txbuf 0 s.latch.exN.toNat = command) (ho : o.drains)
    (he : s.env = o.before s.cfgDrain s.latch.exN.toNat e) :
    ∃ k, k ≤ 7 + (match s.cfgDrain with | .off => 0 | .loop => o.stale.length) ∧ ∀ n,
      drive prog (n + k) s = drive prog n (exchangeReading t command o e s) := by
  have hlen : command.length = s.latch.exN.toNat := by rw [← hc]; simp
  have hb : BitVec.ofNat 7 s.latch.exN.toNat = s.latch.exN := by simp
  have hq : s.env.requests = e.requests := by simp [he]
  have hdl : s.env.delays = e.delays := by simp [he]
  have hrs : s.env.resets = e.resets := by simp [he]
  have hdr : s.env.draws = e.draws := by simp [he]
  have htr : s.env.trace = e.trace := by simp [he]
  -- the states up to the drain
  have hpre : ∀ n, drive prog (n + 6) s = drive prog n { s with
      dir := false, txbuf := memZero, rxbuf := memZero, seq := .exchange t .drain
      latch := { s.latch with exW := s.latch.exN }
      env := { s.env with
        writes := e.writes
        trace := s.env.trace ++ [.dir true, .write command command.length, .dir false] } } := by
    intro n
    have hw : s.env.writes = s.latch.exN.toNat :: e.writes := by
      rw [he]; cases s.cfgDrain <;> rfl
    rw [drive_next (n := n + 5) (s' := goto (.exchange t .write) (driveDir true s)) (by simp [hs])
      (by rw [hprog s _ hs]; rfl)]
    rw [drive_next (n := n + 4) (by simp) (by
      rw [hprog _ .write (by simp)]
      simp only [exchangeStep, exWrite, goto_latch, driveDir_latch, hn, if_true, goto_env, driveDir_env, takeWrite, hw,
        Nat.min_self, hb]
      rfl)]
    rw [drive_next (n := n + 3) (by simp) (by rw [hprog _ .dirOff (by simp)]; rfl)]
    rw [drive_next (n := n + 2) (by simp) (by rw [hprog _ .zeroTx (by simp)]; rfl)]
    rw [drive_next (n := n + 1) (by simp) (by
      rw [hprog _ .checkW (by simp)]
      simp only [exchangeStep, exCheckW]
      rw [if_neg (by simp)])]
    rw [drive_next (n := n) (by simp) (by rw [hprog _ .zeroRx (by simp)]; rfl)]
    simp [goto, driveDir, emit, hc, hlen]
  cases hd : s.cfgDrain with
  | off =>
    refine ⟨7, by omega, fun n => ?_⟩
    rw [show n + 7 = (n + 1) + 6 from rfl, hpre, drive_next (n := n) (by simp) (by
      rw [hprog _ .drain (by simp)]
      simp only [exchangeStep, exDrain, hd]
      rfl)]
    have hre : s.env.reads = o.response :: e.reads := by rw [he, hd]; rfl
    have hav : s.env.avails = e.avails := by rw [he, hd]; rfl
    simp [exchangeReading, goto, actionsBeforeRead, hav, hq, hdl, hrs, hdr, htr, hd, hre]
  | loop =>
    refine ⟨7 + o.stale.length, le_refl _, fun n => ?_⟩
    have hre : s.env.reads = o.stale.map Prod.snd ++ o.response :: e.reads := by rw [he, hd]; rfl
    have hav : s.env.avails = o.stale.map Prod.fst ++ 0 :: e.avails := by rw [he, hd]; rfl
    rw [show n + (7 + o.stale.length) = (n + (o.stale.length + 1)) + 6 by omega, hpre,
      drive_drain hprog e.avails (o.response :: e.reads) o.stale _ ho (by simp) (by simp [hd]) (by simp [hav])
        (by simp [hre])]
    simp [exchangeReading, goto, actionsBeforeRead, hq, hdl, hrs, hdr, htr, hd]

/-- The actions of an exchange are those up to the read, and the read. -/
theorem actions_eq (d : Drain) (command : List Byte) (m : Nat) (o : Offer) :
    o.actions d command m = actionsBeforeRead d command o ++ [.read m o.response] := by
  cases d <;> simp [Offer.actions, actionsBeforeRead]

/-- An EXCHANGE answered whole. -/
theorem drive_exchange {prog : State → Micro} {t : Turn}
    (hprog : ∀ u m, u.seq = .exchange t m → prog u = exchangeStep t m u) {s : State} {command : List Byte}
    {o : Offer} {e : Env} (hs : s.seq = .exchange t .dirOn) (hn : exLength s.latch.exN = true)
    (hm : exLength s.latch.exM = true) (hc : memReadList s.txbuf 0 s.latch.exN.toNat = command) (ho : o.drains)
    (hr : o.response.length = s.latch.exM.toNat)
    (he : s.env = o.before s.cfgDrain s.latch.exN.toNat e) :
    ∃ k, k ≤ 9 + (match s.cfgDrain with | .off => 0 | .loop => o.stale.length) ∧ ∀ n,
      drive prog (n + k) s = drive prog n (exchangeDone t command o e s) := by
  obtain ⟨k, hk, hrun⟩ := drive_exchange_reading hprog hs hn hc ho he
  have htake : o.response.take s.latch.exM.toNat = o.response := by rw [← hr]; simp
  refine ⟨k + 2, by omega, fun n => ?_⟩
  rw [show n + (k + 2) = (n + 2) + k by omega, hrun, drive_next (n := n + 1) (by simp [exchangeReading]) (by
    rw [hprog _ .read rfl]
    simp only [exchangeStep, exRead, exchangeReading, hm, if_true, htake, hr]
    rfl)]
  rw [drive_next (n := n) (by simp) (by
    rw [hprog _ .checkR (by simp)]
    simp only [exchangeStep, exCheckR]
    rw [if_neg (by simp)])]
  simp [exchangeDone, goto, emit, Env.did, actions_eq]

/-- An EXCHANGE answered short. -/
theorem drive_exchange_shortRead {prog : State → Micro} {t : Turn}
    (hprog : ∀ u m, u.seq = .exchange t m → prog u = exchangeStep t m u) {s : State} {command : List Byte}
    {o : Offer} {e : Env} (hs : s.seq = .exchange t .dirOn) (hn : exLength s.latch.exN = true)
    (hm : exLength s.latch.exM = true) (hc : memReadList s.txbuf 0 s.latch.exN.toNat = command) (ho : o.drains)
    (hr : o.response.length < s.latch.exM.toNat)
    (he : s.env = o.before s.cfgDrain s.latch.exN.toNat e) :
    ∃ k, k ≤ 9 + (match s.cfgDrain with | .off => 0 | .loop => o.stale.length) ∧ ∀ n,
      drive prog (n + k) s = drive prog n (exchangeShortRead t command o e s) := by
  obtain ⟨k, hk, hrun⟩ := drive_exchange_reading hprog hs hn hc ho he
  have htake : o.response.take s.latch.exM.toNat = o.response := List.take_of_length_le (by omega)
  have hne : BitVec.ofNat 7 o.response.length ≠ s.latch.exM := by
    intro h
    have := congrArg BitVec.toNat h
    have := s.latch.exM.isLt
    simp only [BitVec.toNat_ofNat] at *
    omega
  refine ⟨k + 2, by omega, fun n => ?_⟩
  rw [show n + (k + 2) = (n + 2) + k by omega, hrun, drive_next (n := n + 1) (by simp [exchangeReading]) (by
    rw [hprog _ .read rfl]
    simp only [exchangeStep, exRead, exchangeReading, hm, if_true, htake]
    rfl)]
  rw [drive_next (n := n) (by simp) (by
    rw [hprog _ .checkR (by simp)]
    simp only [exchangeStep, exCheckR]
    rw [if_pos (by simpa using hne)])]
  simp [exchangeShortRead, goto, emit, Env.did, actions_eq]

/-- The state after an EXCHANGE whose write is short (R143, the WriteError row): w bytes of the command were taken. -/
def exchangeShortWrite (t : Turn) (command : List Byte) (w : Nat) (ws : List Nat) (s : State) : State :=
  { s with
    txbuf := memZero
    rxbuf := memZero
    dir := false
    seq := .check t
    latch := { s.latch with exW := BitVec.ofNat 7 w, exRet := .writeError }
    env := { s.env with writes := ws }.did [.dir true, .write command w, .dir false] }

/-- An EXCHANGE whose write is short. -/
theorem drive_exchange_shortWrite {prog : State → Micro} {t : Turn}
    (hprog : ∀ u m, u.seq = .exchange t m → prog u = exchangeStep t m u) {s : State} {command : List Byte}
    {w : Nat} {ws : List Nat} (hs : s.seq = .exchange t .dirOn) (hn : exLength s.latch.exN = true)
    (hc : memReadList s.txbuf 0 s.latch.exN.toNat = command) (hw : s.env.writes = w :: ws)
    (hlt : w < s.latch.exN.toNat) (n : Nat) :
    drive prog (n + 5) s = drive prog n (exchangeShortWrite t command w ws s) := by
  have hmin : min w s.latch.exN.toNat = w := by omega
  have hne : BitVec.ofNat 7 w ≠ s.latch.exN := by
    intro h
    have := congrArg BitVec.toNat h
    have := s.latch.exN.isLt
    simp only [BitVec.toNat_ofNat] at *
    omega
  rw [drive_next (n := n + 4) (s' := goto (.exchange t .write) (driveDir true s)) (by simp [hs])
    (by rw [hprog s _ hs]; rfl)]
  rw [drive_next (n := n + 3) (by simp) (by
    rw [hprog _ .write (by simp)]
    simp only [exchangeStep, exWrite, goto_latch, driveDir_latch, hn, if_true, goto_env, driveDir_env, takeWrite, hw, hmin]
    rfl)]
  rw [drive_next (n := n + 2) (by simp) (by rw [hprog _ .dirOff (by simp)]; rfl)]
  rw [drive_next (n := n + 1) (by simp) (by rw [hprog _ .zeroTx (by simp)]; rfl)]
  rw [drive_next (n := n) (by simp) (by
    rw [hprog _ .checkW (by simp)]
    simp only [exchangeStep, exCheckW]
    rw [if_pos (by simpa using hne)])]
  simp [exchangeShortWrite, goto, driveDir, emit, Env.did, hc]

end Sys2Proof.Machine
end

