-- ==== Sys2Proof/Laws/Operations.lean ====
section
/-!
SUPPORT. Every operation as one shape: a request and the meaning of its sequencer states, run by `operate`, or one
state at a time by `step`. A proof about all operations goes by these lemmas and the laws of `operate` and `drive`.
-/

namespace Sys2Proof.Machine

theorem exec_eq_operate (i : Instr) (s : State) : exec i s = operate (requestOf i) (statesOf i) s := by
  cases i <;> rfl

/-- An operation and the operation its request names have the same states. -/
theorem statesOf_instrOf (i : Instr) : statesOf (instrOf (requestOf i)) = statesOf i := by
  cases i <;> rfl

theorem requestOf_instrOf_requestOf (i : Instr) : requestOf (instrOf (requestOf i)) = requestOf i := by
  cases i <;> rfl

/-- A request and its operation are in their domains together. -/
theorem wellFormed_instrOf (i : Instr) : (instrOf (requestOf i)).wellFormed = i.wellFormed := by
  cases i <;> simp [requestOf, instrOf, Instr.wellFormed, valueInRange, paramRange]

/-- One state of an operation, as a step of the machine takes it. -/
theorem drive_one {prog : State → Micro} {s : State} (h : s.seq ≠ .idle) :
    drive prog 1 s = match prog s with | .next t => .next t | .wait => .next s | .fault f => .fault f := by
  cases hp : prog s <;> simp [drive, h, hp]

/-- Everything a step of the sequencer can be (R26, R28, R342). -/
theorem sequencerStep_cases {s : State} {o : Outcome} (h : sequencerStep s = o) :
    (s.seq = .idle ∧ s.env.requests = [] ∧ o = .next s) ∨
    (s.seq = .idle ∧ ∃ i rest, s.env.requests = i :: rest ∧
      (((requestOf i).op = .init ∨ s.initDone = true) ∧ o = .next (accept (requestOf i) (takeRequest s)) ∨
       (requestOf i).op ≠ .init ∧ s.initDone = false ∧ o = .refused .notInitialised)) ∨
    (s.seq ≠ .idle ∧ latchedInstr s = none ∧ o = .next s) ∨
    (s.seq ≠ .idle ∧ ∃ i, latchedInstr s = some i ∧
      ((∃ t, statesOf i s = .next t ∧ o = .next t) ∨ (statesOf i s = .wait ∧ o = .next s) ∨
       ∃ f, statesOf i s = .fault f ∧ o = .fault f)) := by
  subst h
  by_cases hi : s.seq = .idle
  · cases hr : s.env.requests with
    | nil => exact .inl ⟨hi, rfl, by simp [sequencerStep, hi, hr]⟩
    | cons i rest =>
      refine .inr (.inl ⟨hi, i, rest, rfl, ?_⟩)
      by_cases hd : (requestOf i).op = .init ∨ s.initDone = true
      · exact .inl ⟨hd, by simp [sequencerStep, start, hi, hr, hd]⟩
      · have hd' := hd
        simp only [not_or, Bool.not_eq_true] at hd'
        exact .inr ⟨hd'.1, hd'.2, by simp [sequencerStep, start, hi, hr, hd]⟩
  · cases hl : latchedInstr s with
    | none => exact .inr (.inr (.inl ⟨hi, rfl, by simp [sequencerStep, hi, hl]⟩))
    | some i =>
      refine .inr (.inr (.inr ⟨hi, i, rfl, ?_⟩))
      have hstep : sequencerStep s = drive (statesOf i) 1 s := by simp [sequencerStep, hi, hl]
      rw [hstep, drive_one hi]
      cases statesOf i s with
      | next t => exact .inl ⟨t, rfl, rfl⟩
      | wait => exact .inr (.inl ⟨rfl, rfl⟩)
      | fault f => exact .inr (.inr ⟨f, rfl, rfl⟩)

/-- A step with no reset listed is a step of the sequencer. -/
theorem step_quiet {s : State} (h : s.env.resets = []) : step s = sequencerStep s := by
  simp [step, h, takeReset_quiet h]

/-- Everything a step can be: a reset (R382), or a step of the sequencer (R28). -/
theorem step_cases (s : State) :
    (s.env.resets.head? = some true ∧ step s = .next (resetBlock (takeReset s))) ∨
    (s.env.resets.head? ≠ some true ∧ step s = sequencerStep (takeReset s)) := by
  by_cases h : s.env.resets.head? = some true
  · exact .inl ⟨h, by simp [step, h]⟩
  · exact .inr ⟨h, by simp [step, h]⟩

/-- The two operations of a second exchange give its states the meaning of EXCHANGE (R183, R293). -/
theorem statesOf_exchange_second {i : Instr} (h : (commandBytes State.reset i .second).isSome = true) {s : State}
    {m : ExState} (hs : s.seq = .exchange .second m) : statesOf i s = exchangeStep .second m s := by
  cases i <;> simp_all [commandBytes, statesOf, setPosWeakKeepStates, writeEepromStates]

/-- Every bus operation gives its first exchange's states the meaning of EXCHANGE. -/
theorem statesOf_exchange_first {i : Instr} (h : usesBus i = true) {s : State} {m : ExState}
    (hs : s.seq = .exchange .first m) : statesOf i s = exchangeStep .first m s := by
  cases i <;> simp_all [usesBus, statesOf, setPosStates, setPosWeakStates, setPosWeakKeepStates, readParamStates,
    writeParamStates, readEepromStates, readEepromRawStates, writeEepromStates, isServoAliveStates, getIdStates,
    setIdStates]

end Sys2Proof.Machine
end

