-- ==== Sys2Proof/Laws/PerInstr.lean ====
section
/-!
SUPPORT. Families of statements about an instruction as syntax, one lemma per constructor.
-/

namespace Sys2Proof.Laws

open Sys2Proof.Machine

/-- An operation's command-port tuple (R40) names an operation with the same tuple, the same operand domains and, in
every configuration, the same frame: the tuple loses nothing the block uses, and a READ_ or WRITE_ mnemonic is
READ_PARAM or WRITE_PARAM of its kind (R113). -/
def PortTuple.Statement (i : Instr) : Prop :=
  requestOf (instrOf (requestOf i)) = requestOf i ∧ (instrOf (requestOf i)).wellFormed = i.wellFormed ∧
    ∀ p base, instrFrame p base (instrOf (requestOf i)) = instrFrame p base i

theorem PortTuple.init (baud : Int) (modesel : Bool) : PortTuple.Statement (.init baud modesel) :=
  ⟨rfl, wellFormed_instrOf _, fun _ _ => rfl⟩

theorem PortTuple.setBaud (baud : Int) : PortTuple.Statement (.setBaud baud) :=
  ⟨rfl, wellFormed_instrOf _, fun _ _ => rfl⟩

theorem PortTuple.setPos (id : Int) (pos : Int) : PortTuple.Statement (.setPos id pos) :=
  ⟨rfl, wellFormed_instrOf _, fun _ _ => rfl⟩

theorem PortTuple.setPosWeak (id : Int) : PortTuple.Statement (.setPosWeak id) :=
  ⟨rfl, wellFormed_instrOf _, fun _ _ => rfl⟩

theorem PortTuple.setPosWeakKeep (id : Int) : PortTuple.Statement (.setPosWeakKeep id) :=
  ⟨rfl, wellFormed_instrOf _, fun _ _ => rfl⟩

theorem PortTuple.readParam (id : Int) (kind : ParamKind) : PortTuple.Statement (.readParam id kind) :=
  ⟨rfl, wellFormed_instrOf _, fun _ _ => rfl⟩

theorem PortTuple.writeParam (id : Int) (kind : ParamKind) (value : Int) : PortTuple.Statement (.writeParam id kind value) :=
  ⟨rfl, wellFormed_instrOf _, fun _ _ => rfl⟩

theorem PortTuple.readStretch (id : Int) : PortTuple.Statement (.readStretch id) :=
  ⟨rfl, wellFormed_instrOf _, fun _ _ => rfl⟩

theorem PortTuple.writeStretch (id : Int) (value : Int) : PortTuple.Statement (.writeStretch id value) :=
  ⟨rfl, wellFormed_instrOf _, fun _ _ => rfl⟩

theorem PortTuple.readSpeed (id : Int) : PortTuple.Statement (.readSpeed id) :=
  ⟨rfl, wellFormed_instrOf _, fun _ _ => rfl⟩

theorem PortTuple.writeSpeed (id : Int) (value : Int) : PortTuple.Statement (.writeSpeed id value) :=
  ⟨rfl, wellFormed_instrOf _, fun _ _ => rfl⟩

theorem PortTuple.readCurrent (id : Int) : PortTuple.Statement (.readCurrent id) :=
  ⟨rfl, wellFormed_instrOf _, fun _ _ => rfl⟩

theorem PortTuple.writeCurrent (id : Int) (value : Int) : PortTuple.Statement (.writeCurrent id value) :=
  ⟨rfl, wellFormed_instrOf _, fun _ _ => rfl⟩

theorem PortTuple.readTemperature (id : Int) : PortTuple.Statement (.readTemperature id) :=
  ⟨rfl, wellFormed_instrOf _, fun _ _ => rfl⟩

theorem PortTuple.writeTemperature (id : Int) (value : Int) : PortTuple.Statement (.writeTemperature id value) :=
  ⟨rfl, wellFormed_instrOf _, fun _ _ => rfl⟩

theorem PortTuple.readEeprom (id : Int) : PortTuple.Statement (.readEeprom id) :=
  ⟨rfl, wellFormed_instrOf _, fun _ _ => rfl⟩

theorem PortTuple.readEepromRaw (id : Int) : PortTuple.Statement (.readEepromRaw id) :=
  ⟨rfl, wellFormed_instrOf _, fun _ _ => rfl⟩

theorem PortTuple.writeEeprom (id : Int) (record : EepromRecord) : PortTuple.Statement (.writeEeprom id record) :=
  ⟨rfl, wellFormed_instrOf _, fun _ _ => rfl⟩

theorem PortTuple.isServoAlive (id : Int) : PortTuple.Statement (.isServoAlive id) :=
  ⟨rfl, wellFormed_instrOf _, fun _ _ => rfl⟩

theorem PortTuple.getId : PortTuple.Statement .getId :=
  ⟨rfl, wellFormed_instrOf _, fun _ _ => rfl⟩

theorem PortTuple.setId (id : Int) : PortTuple.Statement (.setId id) :=
  ⟨rfl, wellFormed_instrOf _, fun _ _ => rfl⟩

end Sys2Proof.Laws
end

