-- ==== Sys2Proof/Tests/Slice0.lean ====
section
/-!
SUPPORT. Tests of one step each, with expected results from spec/95_test_vectors.md (named by their number there), and
a witness for the hypotheses of every obligation that has some.
-/

namespace Sys2Proof.Tests

open Sys2Proof.Machine

/-! ## Helpers -/

/-- A block after its INIT, under the default configuration. -/
def ready (e : Env) : State := { State.afterReset defaultParams e with cfgBaud := .b115200, initDone := true }

/-- A response with nothing stale before it. -/
def quiet (response : List Byte) : Offer := { response := response }

/-- A response behind the echo of the command. -/
def echoed (command response : List Byte) : Offer := { stale := [(command.length, command)], response := response }

/-- The transport of several exchanges: how many command bytes each takes, and what it offers. -/
def transport (xs : List (Nat × Offer)) : Env := xs.foldr (fun x e => x.2.before .loop x.1 e) {}

/-- The bytes written to the bus, exchange by exchange. -/
def sent (s : State) : List (List Byte) :=
  s.env.trace.filterMap fun a => match a with
    | .write bytes _ => some bytes
    | _ => none

/-- What a finished operation shows: RET, OUT_VALUE and the frames it sent. -/
def shows (o : Outcome) : Option (RetCode × Nat × List (List Byte)) :=
  match o with
  | .next t => if t.seq = .idle then some (t.res.ret, t.res.outValue.toNat, sent t) else none
  | _ => none

/-- Block B (spec/95_test_vectors.md section 3). -/
def blockB : List Byte :=
  [0x23#8, 0x00#8, 0x05#8, 0x0A#8, 0x03#8, 0x0C#8, 0x07#8, 0x0F#8, 0x00#8, 0x01#8, 0x00#8, 0x02#8, 0x02#8, 0x08#8, 0x0F#8, 0x0A#8] ++
  [0x00#8, 0x01#8, 0x02#8, 0x0C#8, 0x0E#8, 0x0C#8, 0x00#8, 0x0D#8, 0x0A#8, 0x0C#8, 0x00#8, 0x00#8, 0x00#8, 0x0A#8, 0x05#8, 0x00#8] ++
  [0x03#8, 0x0F#8] ++ List.replicate 19 0x00#8 ++ [0x01#8, 0x00#8, 0x00#8, 0x00#8, 0x00#8, 0x00#8, 0x03#8, 0x03#8, 0x0C#8, 0x03#8, 0x0C#8] ++
  [0x03#8, 0x0C#8]

/-- A field of a finished operation's state. -/
def field {α : Type} (f : State → α) (o : Outcome) : Option α :=
  match o with
  | .next t => some (f t)
  | _ => none

/-! ## Well-formedness: each check refuses an ill-formed term -/

theorem test_refuses_init :
    (Instr.init 9600 true).wellFormed = false := by decide

theorem test_refuses_setBaud :
    (Instr.setBaud 0).wellFormed = false := by decide

theorem test_refuses_setPos :
    (Instr.setPos 32 7500).wellFormed = false ∧
    (Instr.setPos 3 3499).wellFormed = false ∧
    (Instr.setPos 3 11501).wellFormed = false := by decide

theorem test_refuses_setPosWeak :
    (Instr.setPosWeak (-1)).wellFormed = false := by decide

theorem test_refuses_setPosWeakKeep :
    (Instr.setPosWeakKeep 32).wellFormed = false := by decide

theorem test_refuses_readParam :
    (Instr.readParam 32 .speed).wellFormed = false ∧
    (Instr.readParam 0 .eeprom).wellFormed = false := by decide

theorem test_refuses_writeParam :
    (Instr.writeParam (-1) .speed 5).wellFormed = false ∧
    (Instr.writeParam 0 .eeprom 5).wellFormed = false ∧
    (Instr.writeParam 0 .current 64).wellFormed = false := by decide

theorem test_refuses_readKinds :
    (Instr.readStretch 32).wellFormed = false ∧
    (Instr.readSpeed 32).wellFormed = false ∧
    (Instr.readCurrent 32).wellFormed = false ∧
    (Instr.readTemperature 32).wellFormed = false := by decide

theorem test_refuses_writeKinds_id :
    (Instr.writeStretch 32 1).wellFormed = false ∧
    (Instr.writeSpeed 32 1).wellFormed = false ∧
    (Instr.writeCurrent 32 1).wellFormed = false ∧
    (Instr.writeTemperature 32 1).wellFormed = false := by decide

theorem test_refuses_writeKinds_value :
    (Instr.writeStretch 0 0).wellFormed = false ∧
    (Instr.writeSpeed 0 128).wellFormed = false ∧
    (Instr.writeCurrent 4 64).wellFormed = false ∧
    (Instr.writeTemperature 0 128).wellFormed = false := by decide

theorem test_refuses_readEeprom :
    (Instr.readEeprom (-1)).wellFormed = false ∧
    (Instr.readEepromRaw 32).wellFormed = false ∧
    (Instr.isServoAlive 32).wellFormed = false := by decide

theorem test_refuses_writeEeprom :
    (Instr.writeEeprom 40 {}).wellFormed = false ∧
    (Instr.writeEeprom 3 { stretch := some 0 }).wellFormed = false := by decide

theorem test_refuses_setId :
    (Instr.setId 40).wellFormed = false := by decide

theorem test_refuses_ill_formed_frames :
    (Frame.readParam 0 0x00#8).wellFormed = false ∧ (Frame.writeParam 0 0x00#8 5).wellFormed = false ∧
    (Frame.writeEeprom 0 []).wellFormed = false := by decide

/-- A layout whose groups overlap, flag bits that coincide, sub-codes that coincide (R105, R122). -/
theorem test_refuses_unsound_parameters :
    ({ defaultLayout with speed := 5 } : Layout).ok = false ∧ ({ defaultFlagBits with slave := 4 } : FlagBits).ok = false ∧
    ({ defaultSubcodes with stretch := 0x00#8 } : Subcodes).ok = false := by decide +kernel

theorem test_default_parameters_are_sound : defaultParams.ok = true := by decide +kernel

/-! ## Decoding: words written out from the formats R92 to R99 -/

/-- R92: 100 + id 00011, 0 + pos[13:7] 0011011, 0 + pos[6:0] 0101100. -/
theorem test_decodes_setPos :
    decodeInstr defaultParams [0b10000011#8, 0b00011011#8, 0b00101100#8] = .ok (.setPos 3 3500, []) := by decide

/-- R92 with position 0. -/
theorem test_decodes_setPosWeak :
    decodeInstr defaultParams [0b10000101#8, 0b00000000#8, 0b00000000#8] = .ok (.setPosWeak 5, []) := by decide

/-- R94: 101 + id, sub-code 0x01. -/
theorem test_decodes_readStretch :
    decodeInstr defaultParams [0b10100000#8, 0x01#8] = .ok (.readStretch 0, []) := by decide

/-- R94, sub-code 0x02. -/
theorem test_decodes_readSpeed :
    decodeInstr defaultParams [0b10111111#8, 0x02#8] = .ok (.readSpeed 31, []) := by decide

/-- R94, sub-code 0x03. -/
theorem test_decodes_readCurrent :
    decodeInstr defaultParams [0b10100011#8, 0x03#8] = .ok (.readCurrent 3, []) := by decide

/-- R94, sub-code 0x04. -/
theorem test_decodes_readTemperature :
    decodeInstr defaultParams [0b10100011#8, 0x04#8] = .ok (.readTemperature 3, []) := by decide

/-- R95: 110 + id, sub-code 0x01, 0 + value. -/
theorem test_decodes_writeStretch :
    decodeInstr defaultParams [0b11000000#8, 0x01#8, 0b01111111#8] = .ok (.writeStretch 0 127, []) := by decide

/-- R95, sub-code 0x02. -/
theorem test_decodes_writeSpeed :
    decodeInstr defaultParams [0b11000001#8, 0x02#8, 0b00000001#8] = .ok (.writeSpeed 1 1, []) := by decide

/-- R95, sub-code 0x03. -/
theorem test_decodes_writeCurrent :
    decodeInstr defaultParams [0b11000100#8, 0x03#8, 0b00111111#8] = .ok (.writeCurrent 4 63, []) := by decide

/-- R95, sub-code 0x04. -/
theorem test_decodes_writeTemperature :
    decodeInstr defaultParams [0b11000100#8, 0x04#8, 0b01010000#8] = .ok (.writeTemperature 4 80, []) := by decide

/-- R96: 101 + id, sub-code 0x00. -/
theorem test_decodes_readEeprom :
    decodeInstr defaultParams [0b10100011#8, 0x00#8] = .ok (.readEeprom 3, []) := by decide

/-- R98. -/
theorem test_decodes_getId :
    decodeInstr defaultParams [0xFF#8, 0x00#8, 0x00#8, 0x00#8] = .ok (.getId, []) := by decide

/-- R99: 111 + id, then 01 01 01. -/
theorem test_decodes_setId :
    decodeInstr defaultParams [0b11100111#8, 0x01#8, 0x01#8, 0x01#8] = .ok (.setId 7, []) := by decide

/-- R97: 110 + id, sub-code 0x00, then 64 payload bytes: P2's frame carries stretch 60. -/
theorem test_decodes_writeEeprom :
    (match decodeInstr defaultParams (0b11000011#8 :: 0x00#8 :: 0x05#8 :: 0x0A#8 :: 0x07#8 :: 0x08#8 :: blockB.drop 6) with
      | .ok (.writeEeprom id r, rest) => some (id, r.stretch, r.speed, rest)
      | _ => none) = some (3, some 60, some 127, []) := by decide +kernel

/-- R109: each reserved encoding is refused by its own name. -/
theorem test_refuses_reserved_words :
    decodeInstr defaultParams [0x7F#8, 0x00#8] = .error .reservedByte0 ∧
    decodeInstr defaultParams [0x83#8, 0x80#8, 0x00#8] = .error .reservedPositionBit ∧
    decodeInstr defaultParams [0xC3#8, 0x02#8, 0x80#8] = .error .reservedValueBit ∧
    decodeInstr defaultParams [0xA3#8, 0x05#8] = .error .reservedSubcode ∧
    decodeInstr defaultParams [0xE3#8, 0x00#8, 0x00#8, 0x00#8] = .error .reservedIdFrame ∧
    decodeInstr defaultParams [0x83#8, 0x00#8] = .error .truncated := by decide

/-- The opcode table's numbering: its match words for READ_SPEED and GET_ID, byte 0 most significant. -/
theorem test_table_words :
    decodeTableWord 16 0xA002 = some (.readSpeed 0) ∧ decodeTableWord 32 0xFF000000 = some .getId := by decide

/-- Operations that share a frame encode to that frame (R113, R322). -/
theorem test_shared_frames :
    encode defaultParams [] (.setPosWeakKeep 5) = encode defaultParams [] (.setPosWeak 5) ∧
    encode defaultParams [] (.readParam 3 .current) = some [0xA3#8, 0x03#8] ∧
    encode defaultParams [] (.writeParam 4 .temperature 80) = some [0xC4#8, 0x04#8, 0x50#8] ∧
    encode defaultParams [] (.readEepromRaw 3) = some [0xA3#8, 0x00#8] ∧
    encode defaultParams [] (.isServoAlive 3) = some [0xA3#8, 0x00#8] ∧
    encode defaultParams [] (.init 115200 true) = none := by decide

/-! ## One step of each operation -/

/-- A1: INIT with modesel drives DIR around the window, the rate and the framing (R150). -/
theorem test_init_actions :
    field (fun t => (t.res.ret, t.cfgBaud, t.initDone, t.dir))
      (exec (.init 1250000 true) (State.afterReset defaultParams { delays := 1 })) =
      some (.ok, .b1250000, true, false) ∧
    field (fun t => t.env.trace) (exec (.init 1250000 true) (State.afterReset defaultParams { delays := 1 })) =
      some [.dir true, .delay defaultParams.startupWindow, .setBaud 1250000, .setFraming 8 .even 1, .dir false] :=
  ⟨by decide, rfl⟩

/-- A3: a rate outside BAUD_SET. -/
theorem test_init_refuses_rate :
    field (fun t => (t.res.ret, t.initDone, t.env.trace)) (exec (.init 9600 true) State.reset) =
      some (.invalidOption, false, []) := by decide

/-- A7. -/
theorem test_setBaud :
    field (fun t => (t.res.ret, t.cfgBaud, t.env.trace)) (exec (.setBaud 625000) (ready {})) =
      some (.ok, .b625000, [.setBaud 625000]) := by decide


/-- PO2, the echo drained first. -/
theorem test_setPos :
    shows (exec (.setPos 3 3500) (ready (transport [(3, echoed [0x83#8, 0x1B#8, 0x2C#8] [0x03#8, 0x1B#8, 0x2C#8])]))) =
      some (.ok, 3500, [[0x83#8, 0x1B#8, 0x2C#8]]) := by decide

/-- PO7. -/
theorem test_setPos_wrong_id :
    shows (exec (.setPos 3 7500) (ready (transport [(3, quiet [0x04#8, 0x3A#8, 0x4C#8])]))) =
      some (.idMismatch, 0, [[0x83#8, 0x3A#8, 0x4C#8]]) := by decide

/-- PO11. -/
theorem test_setPosWeak :
    shows (exec (.setPosWeak 5) (ready (transport [(3, quiet [0x05#8, 0x3A#8, 0x4C#8])]))) =
      some (.ok, 7500, [[0x85#8, 0x00#8, 0x00#8]]) := by decide

/-- PO10's response on SET_POS_WEAK: the two bytes are not masked (R104). -/
theorem test_setPosWeak_exact_bytes :
    shows (exec (.setPosWeak 1) (ready (transport [(3, quiet [0x01#8, 0xFF#8, 0xFF#8])]))) =
      some (.ok, 32895, [[0x81#8, 0x00#8, 0x00#8]]) := by decide

/-- PO12. -/
theorem test_setPosWeakKeep :
    shows (exec (.setPosWeakKeep 2) (ready (transport [(3, quiet [0x02#8, 0x2C#8, 0x6A#8]), (3, quiet [0x02#8, 0x2C#8, 0x6A#8])]))) =
      some (.ok, 5738, [[0x82#8, 0x00#8, 0x00#8], [0x82#8, 0x2C#8, 0x6A#8]]) := by decide

/-- PO13. -/
theorem test_setPosWeakKeep_sample_too_large :
    shows (exec (.setPosWeakKeep 2) (ready (transport [(3, quiet [0x02#8, 0xFF#8, 0xFF#8])]))) =
      some (.returnDataWrong, 0, [[0x82#8, 0x00#8, 0x00#8]]) := by decide

/-- PA3's exchange. -/
theorem test_readParam :
    shows (exec (.readParam 3 .current) (ready (transport [(2, quiet [0x23#8, 0x03#8, 0x14#8])]))) =
      some (.ok, 20, [[0xA3#8, 0x03#8]]) := by decide

/-- PA15. -/
theorem test_readParam_refuses_eeprom :
    shows (exec (.readParam 0 .eeprom) (ready (transport []))) =
      some (.invalidOption, 0, []) := by decide

/-- PA17's exchange. -/
theorem test_writeParam :
    shows (exec (.writeParam 2 .speed 64) (ready (transport [(3, quiet [0x42#8, 0x02#8, 0x40#8])]))) =
      some (.ok, 0, [[0xC2#8, 0x02#8, 0x40#8]]) := by decide

/-- PA16. -/
theorem test_writeParam_refuses_eeprom :
    shows (exec (.writeParam 0 .eeprom 5) (ready (transport []))) =
      some (.invalidOption, 0, []) := by decide

/-- PA1. -/
theorem test_readStretch :
    shows (exec (.readStretch 0) (ready (transport [(2, quiet [0x20#8, 0x01#8, 0x3C#8])]))) =
      some (.ok, 60, [[0xA0#8, 0x01#8]]) := by decide

/-- PA5. -/
theorem test_readSpeed_wrong_kind :
    shows (exec (.readSpeed 1) (ready (transport [(2, quiet [0x61#8, 0x02#8, 0x10#8])]))) =
      some (.returnDataWrong, 0, [[0xA1#8, 0x02#8]]) := by decide

/-- PA6. -/
theorem test_readSpeed_no_range_check :
    shows (exec (.readSpeed 1) (ready (transport [(2, quiet [0x21#8, 0x02#8, 0xFF#8])]))) =
      some (.ok, 255, [[0xA1#8, 0x02#8]]) := by decide

/-- PA3. -/
theorem test_readCurrent :
    shows (exec (.readCurrent 3) (ready (transport [(2, quiet [0x23#8, 0x03#8, 0x14#8])]))) =
      some (.ok, 20, [[0xA3#8, 0x03#8]]) := by decide

/-- PA4. -/
theorem test_readTemperature_wrong_subcode :
    shows (exec (.readTemperature 3) (ready (transport [(2, quiet [0x23#8, 0x05#8, 0x50#8])]))) =
      some (.returnDataWrong, 0, [[0xA3#8, 0x04#8]]) := by decide

/-- PA4's request with its own sub-code. -/
theorem test_readTemperature :
    shows (exec (.readTemperature 3) (ready (transport [(2, quiet [0x23#8, 0x04#8, 0x50#8])]))) =
      some (.ok, 80, [[0xA3#8, 0x04#8]]) := by decide

/-- PA7. -/
theorem test_writeStretch :
    shows (exec (.writeStretch 0 127) (ready (transport [(3, quiet [0x40#8, 0x01#8, 0x7F#8])]))) =
      some (.ok, 0, [[0xC0#8, 0x01#8, 0x7F#8]]) := by decide

/-- PA8. -/
theorem test_writeSpeed :
    shows (exec (.writeSpeed 1 1) (ready (transport [(3, quiet [0x41#8, 0x02#8, 0x01#8])]))) =
      some (.ok, 0, [[0xC1#8, 0x02#8, 0x01#8]]) := by decide

/-- PA9. -/
theorem test_writeCurrent :
    shows (exec (.writeCurrent 4 63) (ready (transport [(3, quiet [0x44#8, 0x03#8, 0x3F#8])]))) =
      some (.ok, 0, [[0xC4#8, 0x03#8, 0x3F#8]]) := by decide

/-- PA10. -/
theorem test_writeCurrent_refuses_64 :
    shows (exec (.writeCurrent 4 64) (ready (transport []))) =
      some (.invalidOption, 0, []) := by decide

/-- PA11. -/
theorem test_writeTemperature_wrong_id :
    shows (exec (.writeTemperature 4 80) (ready (transport [(3, quiet [0x45#8, 0x04#8, 0x50#8])]))) =
      some (.idMismatch, 0, [[0xC4#8, 0x04#8, 0x50#8]]) := by decide

/-- PA14. -/
theorem test_writeTemperature_ignores_value :
    shows (exec (.writeTemperature 0 1) (ready (transport [(3, quiet [0x40#8, 0x04#8, 0xAB#8])]))) =
      some (.ok, 0, [[0xC0#8, 0x04#8, 0x01#8]]) := by decide

/-- I1. -/
theorem test_getId :
    shows (exec (.getId) (ready (transport [(4, quiet [0xE7#8])]))) =
      some (.ok, 7, [[0xFF#8, 0x00#8, 0x00#8, 0x00#8]]) := by decide

/-- I3. -/
theorem test_getId_wrong_kind :
    shows (exec (.getId) (ready (transport [(4, quiet [0xC7#8])]))) =
      some (.returnDataWrong, 0, [[0xFF#8, 0x00#8, 0x00#8, 0x00#8]]) := by decide

/-- I4. -/
theorem test_setId :
    shows (exec (.setId 7) (ready (transport [(4, quiet [0xE7#8])]))) =
      some (.ok, 0, [[0xE7#8, 0x01#8, 0x01#8, 0x01#8]]) := by decide

/-- I6. -/
theorem test_setId_kind_first :
    shows (exec (.setId 7) (ready (transport [(4, quiet [0x67#8])]))) =
      some (.returnDataWrong, 0, [[0xE7#8, 0x01#8, 0x01#8, 0x01#8]]) := by decide

/-- E1: fields of block B as spec/95_test_vectors.md section 3 reads them. -/
theorem test_readEeprom :
    field (fun t => (t.res.ret, t.res.outRec.stretch, t.res.outRec.poslimithigh, t.res.outRec.reverse))
      (exec (.readEeprom 3) (ready (transport [(2, quiet blockB)]))) =
      some (.ok, some 30, some 11500, some true) := by decide +kernel

/-- E5: stretch 0 fails READ validation, bit 0 of the mask. -/
theorem test_readEeprom_invalid_field :
    field (fun t => (t.res.ret, t.res.outRec, t.res.invalidMask))
      (exec (.readEeprom 3) (ready (transport [(2, quiet ((blockB.set 4 0x00#8).set 5 0x01#8))]))) =
      some (.eepromDataWrong, {}, 0x000001) := by decide +kernel

/-- E6: the same block passes READ_EEPROM_RAW and stays in RXBUF. -/
theorem test_readEepromRaw :
    field (fun t => (t.res.ret, rxBlock t))
      (exec (.readEepromRaw 3) (ready (transport [(2, quiet ((blockB.set 4 0x00#8).set 5 0x01#8))]))) =
      some (.ok, (blockB.set 4 0x00#8).set 5 0x01#8) := by decide +kernel

/-- E2's block on READ_EEPROM_RAW: the marker is checked there too (R292). -/
theorem test_readEepromRaw_marker :
    field (fun t => (t.res.ret, t.res.invalidMask))
      (exec (.readEepromRaw 3) (ready (transport [(2, quiet (blockB.set 3 0x0B#8))]))) =
      some (.eepromDataWrong, 0) := by decide +kernel

/-- P2: the write frame is block B with bytes 0, 4 and 5 changed. -/
theorem test_writeEeprom :
    shows (exec (.writeEeprom 3 { stretch := some 60 })
      (ready (transport [(2, quiet blockB), (66, quiet [0x43#8, 0x00#8])]))) =
      some (.ok, 0, [[0xA3#8, 0x00#8], ((blockB.set 0 0xC3#8).set 4 0x07#8).set 5 0x08#8]) := by decide +kernel

/-- P2b: two fields out of range, no exchange. -/
theorem test_writeEeprom_invalid_record :
    field (fun t => (t.res.ret, t.res.invalidMask, t.env.trace))
      (exec (.writeEeprom 3 { stretch := some 0, offset := some 128 }) (ready {})) =
      some (.eepromDataWrong, 0x020001, []) := by decide +kernel

/-- I8: ten good blocks. -/
theorem test_isServoAlive :
    field (fun t => (t.res.ret, t.res.outAlive, (sent t).length))
      (exec (.isServoAlive 3) (ready (transport (List.replicate 10 (2, quiet blockB))))) =
      some (.ok, true, 10) := by decide +kernel

/-- P3: the fourth block carries id 4, and the probe stops there. -/
theorem test_isServoAlive_bad_fourth :
    field (fun t => (t.res.ret, t.res.outAlive, (sent t).length))
      (exec (.isServoAlive 3) (ready (transport
        (List.replicate 3 (2, quiet blockB) ++ (2, quiet (blockB.set 59 0x04#8)) ::
          List.replicate 6 (2, quiet blockB))))) =
      some (.ok, false, 4) := by decide +kernel

/-! ## The exchange and the machine -/

/-- X2: a short write zeroes both buffers. -/
theorem test_short_write :
    field (fun t => (t.res.ret, t.txbuf, t.rxbuf, t.dir))
      (exec (.setPos 0 7500) { ready { writes := [2] } with rxbuf := [(0, 0x21#8)] }) =
      some (.writeError, [], [], false) := by decide

/-- X3: a short read. -/
theorem test_short_read :
    field (fun t => (t.res.ret, t.txbuf, t.rxbuf, t.dir))
      (exec (.setPos 0 7500) (ready { writes := [3], avails := [0], reads := [[0x00#8, 0x3A#8]] })) =
      some (.readError, [], [], false) := by decide

/-- X5a: CFG_DRAIN = OFF takes the echo for the response. -/
theorem test_drain_off_reads_the_echo :
    field (fun t => (t.res.ret, t.res.outValue))
      (exec (.setPos 0 7500)
        { ready { writes := [3], reads := [[0x80#8, 0x3A#8, 0x4C#8]] } with cfgDrain := .off }) =
      some (.ok, 7500) := by decide

/-- X6: a transport that reports a pending byte each time keeps the block in EX_DRAIN. -/
theorem test_endless_drain_stays :
    field (fun t => (t.seq, t.busy))
      (exec (.setPos 0 7500) (ready { writes := [3], avails := [1, 1, 1, 1], reads := [[0#8], [0#8], [0#8]] })) =
      some (.exchange .first .drain, true) := by decide

/-- A step takes the request at the head of the port, and the next one does the action of the state it leads to. -/
theorem test_step_takes_the_request :
    field (fun t => (t.seq, t.env.requests.length, t.res.ret)) (step (ready { requests := [.setBaud 625000, .getId] })) =
      some (.baudAdmit, 1, .none) ∧
    field (fun t => t.seq) (steps 2 (ready { requests := [.setBaud 625000, .getId] })) = some .baudProgram := by decide

/-- A reset between the two exchanges of a composed operation (R382): reset values, nothing undone on the bus. -/
theorem test_reset_between_steps :
    field (fun t => (t.seq, t.initDone, t.latch, t.env.trace))
      (step { ready { resets := [true], trace := [.dir true] } with
        seq := .build .second, latch := { op := some .setPosWeakKeep, keepPos := 5738 } }) =
      some (.idle, false, {}, [.dir true]) := by decide

/-- R30's numeric codes as the signed 8-bit register holds them. -/
theorem test_ret_bits : retBits .ok = 0x01#8 ∧ retBits .readError = 0xFF#8 ∧ retBits .eepromDataWrong = 0xFA#8 := by
  decide

/-! ## The codec -/

/-- C4, C5. -/
theorem test_nibbles : combine 0x10#8 0x00#8 = 0x100 ∧ split 0xC0 = (0x0C#8, 0x00#8) := by decide

/-- C11, C12. -/
theorem test_offset :
    decodeOffset 0x80 = 128 ∧ decodeOffset 0x81 = 127 ∧ decodeOffset 0x7F = -127 ∧
    split (encodeOffset 1) = (0x0F#8, 0x0F#8) ∧ split (encodeOffset (-127)) = (0x07#8, 0x0F#8) := by decide

/-- C15. -/
theorem test_commspeed :
    decodeCommspeed 0x00 = some 1250000 ∧ decodeCommspeed 0x0A = some 115200 ∧ decodeCommspeed 0x02 = none := by decide

/-- C19: free kept, slave set, reverse cleared. -/
theorem test_flags :
    encodeFlags defaultFlagBits { slave := some true, reverse := some false } 0x03 = some 0x82 := by decide

/-- C20. -/
theorem test_encode :
    let out := encodeRecord defaultLayout defaultFlagBits
      { offset := some (-5), stretch := some 33, commspeed := some 625000, poslimitlow := some 4000 } blockB 3
    (out.take 6).drop 4 = [0x04#8, 0x02#8] ∧ (out.take 26).drop 22 = [0x00#8, 0x0F#8, 0x0A#8, 0x00#8] ∧
    (out.take 30).drop 28 = [0x00#8, 0x01#8] ∧ (out.take 56).drop 54 = [0x00#8, 0x05#8] := by decide +kernel

/-- C23, C24. -/
theorem test_masks :
    invalidMask .write { speed := some 0, commspeed := some 9600, currentlimit := some 64, id := some 32 } =
      0x04A002#22 ∧
    invalidMask .read { poslimithigh := some 20000 } = 0 ∧
    invalidMask .write { poslimithigh := some 20000 } = 0x000800#22 := by decide

/-! ## Witnesses: every obligation's hypotheses are met

Each theorem gives concrete values that meet all the hypotheses of the obligation it is named after, clause by
clause. -/

/-- A state that meets the invariant with no operation in progress. -/
theorem inv_idle {s : State} (hseq : s.seq = .idle) (hdir : s.dir = false) (htx : s.txbuf = memZero)
    (hrx : s.rxbuf.wf = true) (hbaud : s.initDone = true ↔ s.cfgBaud ≠ .none) (hdrain : s.cfgDrain = s.params.drain)
    (hres : s.res.ret = .ok ∨ s.res = {}) (halive : s.latch.aliveI = 0) : s.Inv := by
  refine ⟨by rw [htx]; rfl, hrx, by rw [hseq, hdir]; rfl, fun _ => htx, ?_, hbaud, hdrain, ?_, fun h => absurd hseq h,
    ?_, ?_, ?_, ?_, ?_, ?_, ?_, ?_⟩
  · intro t i bytes h
    simp [loadedTurn, hseq] at h
  · intro h
    rcases hres with hr | hr
    · exact absurd hr h
    · simp [hr]
  all_goals simp [hseq, admitted, insideProbe, halive]

theorem witness_CommandByteCarriesKindAndId :
    encode defaultParams [] (.setPos 31 11500) = some [0x9F#8, 0x59#8, 0x6C#8] ∧
    encode defaultParams [] (.setPosWeak 0) = some [0x80#8, 0x00#8, 0x00#8] ∧
    encode defaultParams [] (.setPosWeakKeep 31) = some [0x9F#8, 0x00#8, 0x00#8] ∧
    encode defaultParams [] (.setId 0) = some [0xE0#8, 0x01#8, 0x01#8, 0x01#8] ∧
    encode defaultParams [] (.writeSpeed 31 127) = some [0xDF#8, 0x02#8, 0x7F#8] ∧
    encode defaultParams [] (.readSpeed 0) = some [0xA0#8, 0x02#8] ∧
    (encode defaultParams blockB (.writeEeprom 31 {})).map (·.getD 0 0#8) = some 0xDF#8 ∧
    encode defaultParams [] .getId = some [0xFF#8, 0x00#8, 0x00#8, 0x00#8] := by decide +kernel

theorem witness_PositionFrameCarriesThePosition :
    (encodeFrame (.position (idBits 0) (posBits 0))).map BitVec.toNat = [0x80, 0, 0] ∧
    (encodeFrame (.position (idBits 31) (posBits 16383))).map BitVec.toNat = [0x9F, 0x7F, 0x7F] := by decide

theorem witness_DecodeInvertsEncodeOfFrames :
    [Frame.position 31 16383, Frame.readParam 0 0xFF#8, Frame.writeParam 31 0x01#8 127, Frame.readEeprom 31,
      Frame.writeEeprom 0 (List.replicate 64 0xFF#8), Frame.readId, Frame.writeId 31].all Frame.wellFormed = true := by
  decide

/-- Frames of each group of formats; 0x55 is no P_SUBCODE value of the default configuration, 0x04 is the last. -/
theorem witness_OnlyEncodedFramesDecode :
    decodeFrame [0x9F#8, 0x7F#8, 0x7F#8, 0x55#8] = .ok (.position 31 16383, [0x55#8]) ∧
    decodeFrame [0xFF#8, 0x01#8, 0x01#8, 0x01#8] = .ok (.writeId 31, []) ∧
    decodeFrame [0xA3#8, 0x55#8] = .ok (.readParam 3 0x55#8, []) ∧
    decodeInstr defaultParams [0xA3#8, 0x04#8] = .ok (.readTemperature 3, []) ∧
    decodeInstr defaultParams [0xC3#8, 0x04#8, 0x7F#8] = .ok (.writeTemperature 3 127, []) ∧
    0x05#8 ≠ 0x00#8 ∧ ∀ kind, kind ≠ .eeprom → 0x05#8 ≠ subcode defaultParams.subcodes kind :=
  ⟨rfl, rfl, rfl, rfl, rfl, by decide, fun kind _ => by cases kind <;> decide⟩

theorem witness_OperationWordsDecodeToTheOperation :
    defaultParams.ok = true ∧ blockB.length = 66 ∧ (encode defaultParams blockB (.setPos 3 3500)).isSome = true ∧
    (encode defaultParams blockB (.writeEeprom 3 { stretch := some 60 })).isSome = true := by decide +kernel

theorem witness_CanonicalBuffersReadAlikeAreEqual :
    Memory.wf [(0, 0x05#8), (65, 0x01#8)] = true ∧
    ∀ a, memRead [(0, 0x05#8), (65, 0x01#8)] a =
      memRead (memWriteList memZero 0 (0x05#8 :: List.replicate 64 0x00#8 ++ [0x01#8])) a :=
  ⟨by decide, fun _ => rfl⟩

/-- A block in EX_DIR_ON with a command of three bytes in TXBUF and three bytes expected. -/
def calling (e : Env) : State :=
  { ready e with
    seq := .exchange .first .dirOn
    txbuf := memWriteList memZero 0 [0x80#8, 0x3A#8, 0x4C#8]
    latch := { op := some .setPos, opPos := 7500, exN := 3, exM := 3 } }

/-- X1, X2, X3: the three outcomes. -/
theorem witness_ExchangeLeavesTheStateOfItsOutcome :
    exLength (calling {}).latch.exN = true ∧ exLength (calling {}).latch.exM = true ∧
    memReadList (calling {}).txbuf 0 3 = [0x80#8, 0x3A#8, 0x4C#8] ∧
    (echoed [0x80#8, 0x3A#8, 0x4C#8] [0x00#8, 0x3A#8, 0x4C#8]).drains ∧
    (calling (transport [(3, echoed [0x80#8, 0x3A#8, 0x4C#8] [0x00#8, 0x3A#8, 0x4C#8])])).env =
      (echoed [0x80#8, 0x3A#8, 0x4C#8] [0x00#8, 0x3A#8, 0x4C#8]).before .loop 3 {} ∧
    (calling { writes := [2] }).env.writes = [2] ∧
    (calling (transport [(3, quiet [0x00#8, 0x3A#8])])).env = (quiet [0x00#8, 0x3A#8]).before .loop 3 {} :=
  ⟨by decide, by decide, by decide, by simp [Offer.drains, echoed], rfl, rfl, rfl⟩

theorem witness_OutOfRangeIdNeverReachesTheBus :
    idOperand (.setId 31) = some 31 ∧ idInRange 31 = true ∧ (encode defaultParams [] (.setId 31)).isSome = true ∧
    idOperand (.setId 32) = some 32 ∧ idInRange 32 = false ∧ idInRange (-1) = false ∧ (ready {}).seq = .idle ∧
    (ready {}).initDone = true := by decide

theorem witness_IllFormedRequestEndsBeforeTheBus :
    isInit (.init 9600 true) = true ∧ (Instr.init 9600 true).wellFormed = false ∧ State.reset.seq = .idle ∧
    (Instr.writeEeprom 3 { stretch := some 0 }).wellFormed = false ∧
    refusalCode (.writeEeprom 3 { stretch := some 0 }) = .eepromDataWrong ∧
    refusalMask (.writeEeprom 3 { stretch := some 0 }) = 1 ∧
    refusalCode (.writeEeprom 40 { stretch := some 0 }) = .invalidOption ∧
    refusalMask (.writeEeprom 40 { stretch := some 0 }) = 0 ∧ (ready {}).initDone = true := by decide

theorem witness_RequestBeforeInitIsRefused :
    State.reset.seq = .idle ∧ State.reset.initDone = false ∧ isInit .getId = false := by decide

theorem witness_BusyBlockIgnoresOtherRequests :
    (calling {}).seq ≠ .idle ∧ latchedRequest (calling {}) ≠ some (requestOf .getId) := by decide

theorem witness_InitProgramsTheTransport :
    State.reset.seq = .idle ∧ State.reset.env.delays = 0 ∧ baudReg 115200 = some .b115200 ∧
    baudReg 625000 = some .b625000 ∧ baudReg 1250000 = some .b1250000 ∧
    (State.afterReset defaultParams { delays := 1 }).seq = .idle ∧
    (State.afterReset defaultParams { delays := 1 }).env.delays ≠ 0 := by decide

theorem witness_SetBaudChangesTheRateOnly :
    (ready {}).seq = .idle ∧ (ready {}).initDone = true ∧ baudReg 625000 = some .b625000 := by decide

theorem ready_ready (e : Env) : (ready e).Ready := ⟨rfl, rfl, rfl⟩

theorem quiet_drains (response : List Byte) : (quiet response).drains := by simp [Offer.drains, quiet]

/-- PO6's echo with bit 7 set, and PO11. -/
theorem witness_PositionOperationsReturnTheEcho :
    (posInRange 3500 = true ∧ posInRange 11500 = true ∧ idInRange 3 = true ∧ ((0x83#8 &&& 0x7F#8).toNat : Int) = 3) ∧
    (ready (transport [(3, quiet [0x83#8, 0x3A#8, 0x4C#8])])).Ready ∧ (quiet [0x83#8, 0x3A#8, 0x4C#8]).drains ∧
    (ready (transport [(3, quiet [0x83#8, 0x3A#8, 0x4C#8])])).env =
      (quiet [0x83#8, 0x3A#8, 0x4C#8]).before .loop 3 {} :=
  ⟨by decide, ready_ready _, quiet_drains _, rfl⟩

/-- PO14: the largest sample format P carries. -/
theorem witness_WeakKeepRecommandsTheSample :
    (idInRange 2 = true ∧ ((0x02#8 &&& 0x7F#8).toNat : Int) = 2 ∧
      (16383#16).toNat = ((0x7F#8).toNat <<< 7) + (0x7F#8).toNat ∧ (16383#16).toNat ≤ 16383) ∧
    (ready (transport [(3, quiet [0x02#8, 0x7F#8, 0x7F#8]), (3, quiet [0x02#8, 0x7F#8, 0x7F#8])])).Ready ∧
    (quiet [0x02#8, 0x7F#8, 0x7F#8]).drains ∧
    (ready (transport [(3, quiet [0x02#8, 0x7F#8, 0x7F#8]), (3, quiet [0x02#8, 0x7F#8, 0x7F#8])])).env =
      (quiet [0x02#8, 0x7F#8, 0x7F#8]).before .loop 3 ((quiet [0x02#8, 0x7F#8, 0x7F#8]).before .loop 3 {}) :=
  ⟨by decide, ready_ready _, quiet_drains _, rfl⟩

/-- The least sample above format P's, 16384 (the second byte has bit 7 set). -/
theorem witness_WeakKeepRefusesAnUnencodableSample :
    16383 < ((0x7F#8).toNat <<< 7) + (0x80#8).toNat ∧ idInRange 2 = true ∧
    (ready (transport [(3, quiet [0x02#8, 0x7F#8, 0x80#8])])).Ready ∧ (quiet [0x02#8, 0x7F#8, 0x80#8]).drains ∧
    (ready (transport [(3, quiet [0x02#8, 0x7F#8, 0x80#8])])).env =
      (quiet [0x02#8, 0x7F#8, 0x80#8]).before .loop 3 {} :=
  ⟨by decide, by decide, ready_ready _, quiet_drains _, rfl⟩

/-- PA2, through READ_PARAM and through READ_SPEED. -/
theorem witness_ParameterReadsReturnTheByte :
    (readOperands (.readSpeed 31) = some (31, .speed) ∧ readOperands (.readParam 31 .speed) = some (31, .speed) ∧
    idInRange 31 = true ∧
    [0x3F#8, 0x02#8, 0x7F#8] = [0x20#8 ||| BitVec.ofInt 8 31, subcode defaultParams.subcodes .speed, 0x7F#8]) ∧
    (ready (transport [(2, quiet [0x3F#8, 0x02#8, 0x7F#8])])).Ready ∧ (quiet [0x3F#8, 0x02#8, 0x7F#8]).drains ∧
    (ready (transport [(2, quiet [0x3F#8, 0x02#8, 0x7F#8])])).env =
      (quiet [0x3F#8, 0x02#8, 0x7F#8]).before .loop 2 {} :=
  ⟨by decide, ready_ready _, quiet_drains _, rfl⟩

/-- PA9, through WRITE_PARAM and through WRITE_CURRENT. -/
theorem witness_ParameterWritesSendTheValue :
    (writeOperands (.writeCurrent 4 63) = some (4, .current, 63) ∧
      writeOperands (.writeParam 4 .current 63) = some (4, .current, 63) ∧ valueInRange .current 63 = true ∧
      idInRange 4 = true ∧
      [0x44#8, 0x03#8, 0x3F#8] = [0x40#8 ||| BitVec.ofInt 8 4, subcode defaultParams.subcodes .current, 0x3F#8]) ∧
    (ready (transport [(3, quiet [0x44#8, 0x03#8, 0x3F#8])])).Ready ∧ (quiet [0x44#8, 0x03#8, 0x3F#8]).drains ∧
    (ready (transport [(3, quiet [0x44#8, 0x03#8, 0x3F#8])])).env =
      (quiet [0x44#8, 0x03#8, 0x3F#8]).before .loop 3 {} :=
  ⟨by decide, ready_ready _, quiet_drains _, rfl⟩

/-- E1, and E5's block, whose header and marker pass and whose stretch does not. -/
theorem witness_ReadEepromDecodesTheBlock :
    (blockB.length = 66 ∧ blockCheck 3 blockB = .ok () ∧
      blockCheck 3 ((blockB.set 4 0x00#8).set 5 0x01#8) = .ok () ∧ idInRange 3 = true) ∧
    (ready (transport [(2, quiet blockB)])).Ready ∧ (quiet blockB).drains ∧
    (ready (transport [(2, quiet blockB)])).env = (quiet blockB).before .loop 2 {} :=
  ⟨by decide, ready_ready _, quiet_drains _, rfl⟩

/-- E6's block. -/
theorem witness_RawReadReturnsTheBlock :
    (((blockB.set 4 0x00#8).set 5 0x01#8).length = 66 ∧ blockCheck 3 ((blockB.set 4 0x00#8).set 5 0x01#8) = .ok () ∧
      idInRange 3 = true) ∧ (ready (transport [(2, quiet ((blockB.set 4 0x00#8).set 5 0x01#8))])).Ready ∧
    (quiet ((blockB.set 4 0x00#8).set 5 0x01#8)).drains ∧
    (ready (transport [(2, quiet ((blockB.set 4 0x00#8).set 5 0x01#8))])).env =
      (quiet ((blockB.set 4 0x00#8).set 5 0x01#8)).before .loop 2 {} :=
  ⟨by decide, ready_ready _, quiet_drains _, rfl⟩

/-- E8, P2, E12, a short write and a short read, clause by clause. -/
theorem witness_WriteEepromIsReadModifyWrite :
    (recordOk .write { stretch := some 0 } = false ∧ recordOk .write { stretch := some 60 } = true ∧
      idInRange 3 = true ∧ blockB.length = 66 ∧ blockCheck 3 blockB = .ok () ∧
      [0x43#8, 0x00#8] = [0x40#8 ||| BitVec.ofInt 8 3, 0x00#8] ∧
      blockCheck 3 (blockB.set 3 0x0B#8) = .error .eepromDataWrong ∧ (blockB.set 3 0x0B#8).length = 66 ∧
      (blockB.take 65).length < 66) ∧
    (ready (transport [(2, quiet blockB), (66, quiet [0x43#8, 0x00#8])])).Ready ∧
    (ready (transport [(2, quiet blockB), (66, quiet [0x43#8, 0x00#8])])).env =
      (quiet blockB).before .loop 2 ((quiet [0x43#8, 0x00#8]).before .loop 66 {}) ∧
    (ready (transport [(2, quiet (blockB.set 3 0x0B#8))])).env = (quiet (blockB.set 3 0x0B#8)).before .loop 2 {} ∧
    (ready { writes := [1] }).env.writes = [1] ∧
    (ready (transport [(2, quiet (blockB.take 65))])).env = (quiet (blockB.take 65)).before .loop 2 {} :=
  ⟨by decide, ready_ready _, rfl, rfl, rfl, rfl⟩

/-- I8. -/
theorem witness_TenGoodReadsAreAlive :
    goodProbe defaultParams 3 blockB = true ∧ idInRange 3 = true ∧
    (List.replicate 9 (quiet blockB)).length = 9 ∧ (quiet blockB).drains ∧
    (ready (offersBefore .loop 2 (List.replicate 9 (quiet blockB) ++ [quiet blockB]) {})).Ready :=
  ⟨by decide +kernel, by decide, rfl, quiet_drains _, ready_ready _⟩

/-- P3, with the early exit and without it: a wrong stored id, a short write, a short read, a block whose stretch is
out of range. -/
theorem witness_OneBadReadIsNotAlive :
    (Attempt.offer (quiet blockB)).good defaultParams 3 = true ∧
    (Attempt.offer (quiet (blockB.set 59 0x04#8))).good defaultParams 3 = false ∧
    (Attempt.shortWrite 1).good defaultParams 3 = false ∧
    (Attempt.offer (quiet (blockB.take 65))).good defaultParams 3 = false ∧
    lastMask defaultParams 3 [.offer (quiet ((blockB.set 4 0x00#8).set 5 0x01#8)), .shortWrite 0] = 1 ∧
    (Attempt.offer (quiet blockB)).Possible 2 66 ∧ (Attempt.shortWrite 1).Possible 2 66 ∧
    (Attempt.offer (quiet (blockB.take 65))).Possible 2 66 ∧
    defaultParams.aliveEarlyExit = true ∧ idInRange 3 = true ∧
    (ready (attemptsBefore .loop 2 (List.replicate 3 (.offer (quiet blockB)) ++
      [.offer (quiet (blockB.set 59 0x04#8))]) {})).Ready ∧
    (List.replicate 8 (Attempt.offer (quiet blockB)) ++ [Attempt.shortWrite 1, Attempt.offer (quiet (blockB.take 65))]).length = 10 ∧
    State.Ready { ready (attemptsBefore .loop 2 (List.replicate 8 (.offer (quiet blockB)) ++
      [Attempt.shortWrite 1, .offer (quiet (blockB.take 65))]) {}) with
        params := { defaultParams with aliveEarlyExit := false } } :=
  ⟨by decide +kernel, by decide +kernel, rfl, by decide +kernel, by decide +kernel, ⟨quiet_drains _, by decide⟩,
    (by decide : (1 : Nat) < 2), ⟨quiet_drains _, by decide⟩, rfl, by decide, ready_ready _, by decide, ⟨rfl, rfl, rfl⟩⟩

/-- I2: id 31. -/
theorem witness_GetIdReturnsTheIdBits :
    [0xFF#8] = [0b111#3 ++ 31#5] ∧ (ready (transport [(4, quiet [0xFF#8])])).Ready ∧ (quiet [0xFF#8]).drains ∧
    (ready (transport [(4, quiet [0xFF#8])])).env = (quiet [0xFF#8]).before .loop 4 {} :=
  ⟨by decide, ready_ready _, quiet_drains _, rfl⟩

/-- I7. -/
theorem witness_SetIdAcceptsItsEcho :
    [0xFF#8] = [0b111#3 ++ idBits 31] ∧ idInRange 31 = true ∧ (ready (transport [(4, quiet [0xFF#8])])).Ready ∧
    (quiet [0xFF#8]).drains ∧ (ready (transport [(4, quiet [0xFF#8])])).env = (quiet [0xFF#8]).before .loop 4 {} :=
  ⟨by decide, by decide, ready_ready _, quiet_drains _, rfl⟩

/-- PO7, PA4, E2, I5 and I6, and the first exchange of SET_POS_WEAK_KEEP: each check fails on a complete response, clause
by clause. -/
theorem witness_FailedResponseCheckEndsTheOperation :
    (isIdFrame (.setPosWeakKeep 2) = false ∧ ((0x03#8 &&& 0x1F#8).toNat : Int) ≠ 2 ∧
    0x22#8 &&& (responseKind (.setPosWeakKeep 2)).1 ≠ (responseKind (.setPosWeakKeep 2)).2 ∧
    isIdFrame (.setId 7) = true ∧ 0x67#8 &&& (responseKind (.setId 7)).1 ≠ (responseKind (.setId 7)).2 ∧
    0xE6#8 &&& (responseKind (.setId 7)).1 = (responseKind (.setId 7)).2 ∧ ((0xE6#8 &&& 0x1F#8).toNat : Int) ≠ 7 ∧
    responseSubcode defaultSubcodes (.readTemperature 3) = some 0x04#8 ∧ 0x05#8 ≠ 0x04#8 ∧
    readsBlock (.readEeprom 3) = true ∧ ((0x05#8).toNat <<< 4) ||| (0x0B#8).toNat ≠ 0x5A ∧
    usesBus (.setPosWeakKeep 2) = true ∧ isProbe (.setPosWeakKeep 2) = false ∧
    (Instr.setPosWeakKeep 2).wellFormed = true ∧
    commandBytes (ready (transport [(3, quiet [0x03#8, 0x3A#8, 0x4C#8])])) (.setPosWeakKeep 2) .first =
      some [0x82#8, 0x00#8, 0x00#8] ∧
    (exLengths (requestOf (.setPosWeakKeep 2)).op .first).2 = 3) ∧
    (ready (transport [(3, quiet [0x03#8, 0x3A#8, 0x4C#8])])).Ready ∧ (quiet [0x03#8, 0x3A#8, 0x4C#8]).drains ∧
    (ready (transport [(3, quiet [0x03#8, 0x3A#8, 0x4C#8])])).env =
      (quiet [0x03#8, 0x3A#8, 0x4C#8]).before .loop 3 {} :=
  ⟨by decide, ready_ready _, quiet_drains _, rfl⟩

/-- X2, X3 and I10. -/
theorem witness_ShortTransferEndsTheOperation :
    usesBus (.setPos 0 7500) = true ∧ (Instr.setPos 0 7500).wellFormed = true ∧
    commandBytes (ready { writes := [2] }) (.setPos 0 7500) .first = some [0x80#8, 0x3A#8, 0x4C#8] ∧
    (ready { writes := [2] }).env.writes = [2] ∧ (ready { writes := [2] }).Ready ∧
    (ready (transport [(3, quiet [0x00#8, 0x3A#8])])).Ready ∧ (quiet [0x00#8, 0x3A#8]).drains ∧
    (ready (transport [(3, quiet [0x00#8, 0x3A#8])])).env = (quiet [0x00#8, 0x3A#8]).before .loop 3 {} ∧
    isProbe (.isServoAlive 3) = true ∧ defaultParams.aliveEarlyExit = true ∧
    commandBytes (ready (transport [(2, quiet [])])) (.isServoAlive 3) .first = some [0xA3#8, 0x00#8] ∧
    (ready (transport [(2, quiet [])])).env = (quiet []).before .loop 2 {} :=
  ⟨by decide, by decide, by decide, rfl, ready_ready _, ready_ready _, quiet_drains _, rfl, by decide, rfl, by decide,
    rfl⟩

/-- P4's second request and E10, and the other failures of the two operations, clause by clause. -/
theorem witness_SecondExchangeFailureIsPropagated :
    ((Instr.setPosWeakKeep 2).wellFormed = true ∧ ((0x02#8 &&& 0x7F#8).toNat : Int) = 2 ∧
      (5738#14).toNat = ((0x2C#8).toNat <<< 7) + (0x6A#8).toNat ∧ ((0x03#8 &&& 0x1F#8).toNat : Int) ≠ 2 ∧
      ((0x22#8 &&& 0x1F#8).toNat : Int) = 2 ∧ 0x22#8 &&& 0x60#8 ≠ 0x00#8) ∧
    ((Instr.writeEeprom 3 {}).wellFormed = true ∧ blockCheck 3 blockB = .ok () ∧
      (encodeRecord defaultLayout defaultFlagBits {} blockB 3).length = 66 ∧
      ((0x43#8 &&& 0x1F#8).toNat : Int) = 3 ∧ 0x01#8 ≠ 0x00#8 ∧ ((0x63#8 &&& 0x1F#8).toNat : Int) = 3 ∧
      0x63#8 &&& 0xE0#8 ≠ 0x40#8 ∧ isWriteEeprom (.writeEeprom 3 {}) = true ∧
      ((0x44#8 &&& 0x1F#8).toNat : Int) ≠ 3) ∧
    (ready { transport [(3, quiet [0x02#8, 0x2C#8, 0x6A#8])] with writes := [3, 2] }).env =
      (quiet [0x02#8, 0x2C#8, 0x6A#8]).before .loop 3 { writes := [2] } ∧
    (ready (transport [(3, quiet [0x02#8, 0x2C#8, 0x6A#8]), (3, quiet [0x02#8, 0x2C#8])])).env =
      (quiet [0x02#8, 0x2C#8, 0x6A#8]).before .loop 3 ((quiet [0x02#8, 0x2C#8]).before .loop 3 {}) ∧
    (ready (transport [(3, quiet [0x02#8, 0x2C#8, 0x6A#8]), (3, quiet [0x03#8, 0x2C#8, 0x6A#8])])).env =
      (quiet [0x02#8, 0x2C#8, 0x6A#8]).before .loop 3 ((quiet [0x03#8, 0x2C#8, 0x6A#8]).before .loop 3 {}) ∧
    (ready (transport [(2, quiet blockB), (66, quiet [0x43#8])])).env =
      (quiet blockB).before .loop 2 ((quiet [0x43#8]).before .loop 66 {}) ∧
    (ready (transport [(2, quiet blockB), (66, quiet [0x43#8, 0x01#8])])).env =
      (quiet blockB).before .loop 2 ((quiet [0x43#8, 0x01#8]).before .loop 66 {}) :=
  ⟨by decide, by decide +kernel, rfl, rfl, rfl, rfl, rfl⟩

/-- C20's record over block B: some fields written, some not. -/
theorem witness_CodecRoundTrip :
    defaultLayout.ok = true ∧ defaultFlagBits.ok = true ∧ blockB.length = 66 ∧
    recordOk .write { offset := some (-5), stretch := some 33, free := some true } = true := by decide +kernel

theorem witness_EncoderTouchesOnlyRequestedGroups :
    defaultLayout.ok = true ∧ blockB.length = 66 ∧
    (∀ g, (groupValue defaultLayout defaultFlagBits { stretch := some 33 } blockB g).isSome = true →
      ¬ (defaultLayout.off g ≤ 6 ∧ 6 < defaultLayout.off g + g.size)) :=
  ⟨by decide +kernel, by decide, fun g => by cases g <;> decide⟩

/-- Every field at a boundary of its WRITE range. -/
theorem witness_EncoderWritesEachFieldInItsGroup :
    defaultLayout.ok = true ∧ defaultFlagBits.ok = true ∧ blockB.length = 66 ∧
    recordOk .write
      { stretch := some 127, speed := some 1, punch := some 255, deadband := some 0, dumping := some 255
        safetimer := some 0, slave := some true, rotation := some false, reverse := some true
        poslimithigh := some 11500, poslimitlow := some 3500, commspeed := some 115200, temperaturelimit := some 127
        currentlimit := some 63, response := some 255, offset := some (-127), id := some 31, charstretch1 := some 1
        charstretch2 := some 127, charstretch3 := some 60 } = true := by decide +kernel

theorem witness_FreeFlagIsNeverWritten :
    defaultLayout.ok = true ∧ defaultFlagBits.ok = true ∧ blockB.length = 66 := by decide +kernel

/-- C11's 0x80, and P2b's record on a ready block. -/
theorem witness_OffsetDecodesByItsSignConvention : decodeOffset 0x80 = 128 ∧ (127 : Int) < 128 := by decide

theorem witness_MaskHoldsEveryViolation : idInRange 0 = true ∧ (ready {}).Ready := ⟨by decide, ready_ready _⟩

theorem witness_ModesDifferOnPositionLimitsOnly :
    EepromRecord.get { poslimithigh := some 3499 } .poslimithigh = some (.num 3499) ∧
    EepromRecord.get { poslimitlow := some 65535 } .poslimitlow = some (.num 65535) := by decide

theorem ready_inv (e : Env) : (ready e).Inv :=
  inv_idle rfl rfl rfl rfl (by simp [ready]) rfl (.inr rfl) rfl

/-- A state that meets the invariant, and the state a step of it gives. -/
theorem witness_StepKeepsTheInvariant :
    (ready { requests := [.setBaud 625000] }).Inv ∧ ∃ t, step (ready { requests := [.setBaud 625000] }) = .next t :=
  ⟨ready_inv _, _, rfl⟩

theorem witness_InvariantStatesNeverFault : (ready { requests := [.getId] }).Inv := ready_inv _

/-- An operation that runs to IDLE, and one that runs to a wait. -/
theorem witness_OperationRunsToIdleOrAWait :
    (ready (transport [(4, quiet [0xE7#8])])).Inv ∧ (ready (transport [(4, quiet [0xE7#8])])).seq = .idle ∧
    field (fun t => t.seq) (exec .getId (ready (transport [(4, quiet [0xE7#8])]))) = some .idle ∧
    field (fun t => t.waits) (exec .getId (ready { writes := [4], avails := [0] })) = some true :=
  ⟨ready_inv _, rfl, by decide, by decide⟩

/-- A state of INIT that waits for the window's end, or, at the end, does not. -/
theorem inWindow_inv (e : Env) : State.Inv
    { State.afterReset defaultParams e with
      dir := true, seq := .initDelay, latch := { op := some .init, opBaud := 115200, opModesel := true } } := by
  refine ⟨rfl, rfl, rfl, fun _ => rfl, ?_, by simp [State.afterReset], rfl, fun _ => by simp [State.afterReset],
    fun _ => ⟨_, rfl, rfl, rfl, .inl rfl⟩, by simp, by simp, ?_, by simp, by simp, by simp, by simp,
    by simp [insideProbe]⟩
  · intro t i bytes h
    simp [loadedTurn] at h
  · intro _ i h
    simp only [latchedInstr, latchedRequest, Option.map_some, instrOf, Option.some.injEq] at h
    subst h
    decide

/-- GET_ID in a state of its exchange, with EX_W and EX_R as given. -/
def inside (d : Drain) (m : ExState) (w r : BitVec 7) (e : Env) : State :=
  { State.afterReset { defaultParams with drain := d } e with
    cfgBaud := .b115200
    initDone := true
    dir := dirWhile false (.exchange .first m)
    txbuf := match m with
      | .dirOn => memWriteList memZero 0 [0xFF#8, 0x00#8, 0x00#8, 0x00#8]
      | .write => memWriteList memZero 0 [0xFF#8, 0x00#8, 0x00#8, 0x00#8]
      | _ => memZero
    seq := .exchange .first m
    latch := { op := some .getId, exN := 4, exM := 1, exW := w, exR := r } }

theorem inside_inv (d : Drain) (m : ExState) (w r : BitVec 7) (e : Env)
    (h : m = .zeroRx ∨ m = .drain ∨ m = .read ∨ m = .checkR → w = 4) : (inside d m w r e).Inv where
  txWf := by cases m <;> rfl
  rxWf := rfl
  dirExact := rfl
  txQuiet := by cases m <;> first | exact fun _ => rfl | exact fun h => absurd h (by simp [txLoaded, loadedTurn, inside])
  txCommand := by
    intro t i bytes ht hi hc
    simp only [latchedInstr, latchedRequest, inside, Option.map_some, instrOf, Option.some.injEq] at hi
    subst hi
    cases m <;> simp only [loadedTurn, inside, Option.some.injEq, reduceCtorEq] at ht
    all_goals
      subst ht
      simp only [commandBytes, instrFrame, Option.map_some, Option.some.injEq] at hc
      subst hc
      rfl
  baudProgrammed := by simp [inside]
  drainFixed := rfl
  valuesClear := fun _ => ⟨rfl, rfl, rfl⟩
  inProgress := fun _ => ⟨_, rfl, rfl, rfl, .inr rfl⟩
  windowAsked := by simp [inside]
  idChecked := by simp [inside]
  operandsChecked := by
    intro _ i hi
    simp only [latchedInstr, latchedRequest, inside, Option.map_some, instrOf, Option.some.injEq] at hi
    subst hi
    rfl
  lengths := by
    intro t m' r' ht hr
    simp only [latchedRequest, inside, Option.map_some, Option.some.injEq, SeqState.exchange.injEq] at ht hr
    obtain ⟨rfl, rfl⟩ := ht
    subst hr
    exact ⟨rfl, rfl⟩
  fullWrite := by
    intro t ht
    simp only [inside, SeqState.exchange.injEq] at ht
    exact h (by tauto)
  exchangeResult := by simp [inside]
  sampleFits := by simp [inside]
  probeCount := ⟨by simp [inside], by simp [inside]⟩

/-- Each wait there is (R28), and the same state with its answer there. -/
theorem witness_StepWaitsOnlyForReadsAndTheWindow :
    State.Inv { State.afterReset defaultParams {} with
      dir := true, seq := .initDelay, latch := { op := some .init, opBaud := 115200, opModesel := true } } ∧
    State.waits { State.afterReset defaultParams {} with
      dir := true, seq := .initDelay, latch := { op := some .init, opBaud := 115200, opModesel := true } } = true ∧
    State.waits { State.afterReset defaultParams { delays := 1 } with
      dir := true, seq := .initDelay, latch := { op := some .init, opBaud := 115200, opModesel := true } } = false ∧
    (inside .loop .drain 4 0 { avails := [1] }).waits = true ∧
    (inside .loop .drain 4 0 { avails := [1], reads := [[]] }).waits = false ∧
    (inside .loop .read 4 0 {}).waits = true ∧ (inside .loop .read 4 0 { reads := [[]] }).waits = false ∧
    (inside .loop .write 0 0 {}).waits = false :=
  ⟨inWindow_inv _, rfl, rfl, rfl, rfl, rfl, rfl, rfl⟩

/-- A state for every clause, in the order of EXCHANGE. -/
theorem witness_EachStepIsOneExchangeState :
    (inside .loop .dirOn 0 0 {}).Inv ∧
    (inside .loop .write 0 0 { writes := [4] }).Inv ∧ 4 ≤ (inside .loop .write 0 0 {}).latch.exN.toNat ∧
    (inside .loop .write 0 0 {}).Inv ∧ (inside .loop .write 0 0 {}).env.writes = [] ∧
    (inside .loop .dirOff 4 0 {}).Inv ∧ (inside .loop .zeroTx 4 0 {}).Inv ∧
    (inside .loop .checkW 3 0 {}).Inv ∧ (inside .loop .checkW 4 0 {}).Inv ∧ (3#7 ≠ 4#7) ∧
    (inside .loop .zeroRx 4 0 {}).Inv ∧
    (inside .off .drain 4 0 {}).Inv ∧ (inside .off .drain 4 0 {}).cfgDrain = .off ∧
    (inside .loop .drain 4 0 { avails := [0] }).Inv ∧ (inside .loop .drain 4 0 { avails := [0] }).cfgDrain = .loop ∧
    (inside .loop .drain 4 0 { avails := [1] }).Inv ∧
    (inside .loop .drain 4 0 { avails := [1], reads := [[0x55#8]] }).Inv ∧
    (inside .loop .drain 4 0 {}).Inv ∧ (inside .loop .drain 4 0 {}).env.avails = [] ∧
    (inside .loop .drain 4 0 { reads := [[]] }).Inv ∧ (∀ k, ([] : List Byte).length ≤ k) ∧
    (inside .loop .read 4 0 {}).Inv ∧ (inside .loop .read 4 0 { reads := [[0xE7#8]] }).Inv ∧
    [0xE7#8].length ≤ (inside .loop .read 4 0 {}).latch.exM.toNat ∧
    (inside .loop .checkR 4 0 {}).Inv ∧ (inside .loop .checkR 4 1 {}).Inv ∧ (0#7 ≠ 1#7) := by
  refine ⟨?_, ?_, by decide, ?_, rfl, ?_, ?_, ?_, ?_, by decide, ?_, ?_, rfl, ?_, rfl, ?_, ?_, ?_, rfl, ?_,
    Nat.zero_le, ?_, ?_, by decide, ?_, ?_, by decide⟩ <;> exact inside_inv _ _ _ _ _ (by decide)

/-- A reset comes in the middle of an operation. -/
theorem witness_ResetAbandonsTheOperation : (calling { resets := [true, false] }).env.resets = true :: [false] := rfl

theorem witness_OnlyRequestsBeforeInitAreRefused :
    State.Inv { State.reset with env := { requests := [.getId] } } ∧
    step { State.reset with env := { requests := [.getId] } } = .refused .notInitialised :=
  ⟨inv_idle rfl rfl rfl rfl (by simp [State.reset, State.afterReset]) rfl (.inr rfl) rfl, rfl⟩

theorem witness_StepsOnlyAddPortActions :
    ∃ t, step (ready { requests := [.getId], writes := [4] }) = .next t := ⟨_, rfl⟩

theorem witness_BusOperationFrame :
    usesBus .getId = true ∧ ∃ t, exec .getId (ready (transport [(4, quiet [0xE7#8])])) = .next t :=
  ⟨rfl, _, rfl⟩

theorem witness_LinkOperationFrame :
    usesBus (.setBaud 625000) = false ∧ usesBus (.init 625000 true) = false ∧ isInit (.setBaud 625000) = false ∧
    (∃ t, exec (.setBaud 625000) (ready {}) = .next t) ∧ ∃ t, exec (.init 625000 true) State.reset = .next t :=
  ⟨rfl, rfl, rfl, ⟨_, rfl⟩, ⟨_, rfl⟩⟩

/-- An operation that waits for the transport's answer to its read. -/
theorem witness_ResultsAreWrittenAtTheEnd :
    field (fun t => t.seq) (exec .getId (ready { writes := [4], avails := [0] })) = some (.exchange .first .read) ∧
    validates .getId = false := by
  decide

theorem witness_NoResidueBetweenOperations :
    (ready {}).seq = .idle ∧ (∃ t, exec .getId (ready (transport [(4, quiet [0xE7#8])])) = .next t) ∧
    usesBus .getId = true ∧ Instr.wellFormed .getId = true ∧ usesBus (.setBaud 625000) = false ∧
    ∃ t, exec (.setBaud 625000) (ready {}) = .next t := ⟨rfl, ⟨_, rfl⟩, rfl, rfl, rfl, _, rfl⟩

theorem witness_ReservedFramesAreNeverEmitted :
    (ready (transport [(4, quiet [0xE7#8])])).Inv ∧ defaultParams.ok = true ∧
    (ready (transport [(4, quiet [0xE7#8])])).FramesLegal ∧
    ∃ t, step (ready (transport [(4, quiet [0xE7#8])])) = .next t :=
  ⟨ready_inv _, by decide +kernel, by simp [State.FramesLegal, ready, State.afterReset, transport, Offer.before, quiet],
    _, rfl⟩

theorem witness_StepRunsTheRequestedOperation :
    (ready { requests := [.getId] }).seq = .idle ∧ (ready { requests := [.getId] }).env.requests = [.getId] ∧
    (ready {}).env.requests = [] ∧ (ready {}).env.resets = [] ∧ (calling {}).seq ≠ .idle ∧
    latchedInstr (calling {}) = some (.setPos 0 7500) ∧
    (∃ t, statesOf (.setPos 0 7500) (calling {}) = .next t) ∧
    statesOf (.setPos 0 7500) { calling {} with seq := .exchange .first .read } = .wait ∧
    statesOf (.setPos 0 7500) { calling {} with seq := .exchange .first .write, latch := { op := some .setPos } } =
      .fault .bufferRange :=
  ⟨rfl, rfl, rfl, rfl, by decide, by decide, ⟨_, rfl⟩, rfl, rfl⟩

theorem witness_StepsComeToTheOperation :
    (ready { requests := [.getId] }).env.resets = [] ∧ (ready { requests := [.getId] }).seq = .idle ∧
    (ready { requests := [.getId] }).env.requests = .getId :: [] ∧
    (calling {}).seq ≠ .idle ∧ latchedRequest (calling {}) = some (requestOf (.setPos 0 7500)) := by decide

theorem witness_FetchedWordRunsNext : decodeTableWord 16 0xA002 = some (.readSpeed 0) := by decide

/-- The very next step takes the operation of the word, from the reset state too. -/
theorem test_fetched_word_is_taken :
    field (fun t => (t.seq, latchedRequest t)) (step (State.reset.withFetchWord 16 0xA002)) =
      some (.admission, some { op := .readParam, id := 0, kind := .speed }) := by decide


/-- R275's split at its two ends. -/
theorem witness_SplitThenCombineIsIdentity : combine (split 0).1 (split 0).2 = 0 ∧ combine (split 255).1 (split 255).2 = 255 := by
  decide

/-- R277's code at both ends of its range and at zero. -/
theorem witness_OffsetCodeRoundTrips :
    decodeOffset (encodeOffset (-127)) = -127 ∧ decodeOffset (encodeOffset 0) = 0 ∧
    decodeOffset (encodeOffset 127) = 127 := by decide

end Sys2Proof.Tests
end

section
/-!
SUPPORT. Command byte 0 of every frame (R90), the operand bits it and format P carry (R92, R102, R103), and an
operation refused in its first state (R342).
-/

namespace Sys2Proof

open Machine

/-! ## Operands in their bits -/

theorem idInRange_iff {id : Int} : idInRange id = true ↔ 0 ≤ id ∧ id ≤ 31 := by simp [idInRange]

theorem idBits_toNat {id : Int} (h : idInRange id = true) : (idBits id).toNat = id.toNat := by
  obtain ⟨h0, h31⟩ := idInRange_iff.mp h
  simp only [idBits, BitVec.toNat_ofInt]
  omega

theorem posBits_toNat {pos : Int} (h0 : 0 ≤ pos) (hmax : pos ≤ 16383) : (posBits pos).toNat = pos.toNat := by
  simp only [posBits, BitVec.toNat_ofInt]
  omega

/-- A byte whose bit 7 is clear reads as its seven bits (R92). -/
theorem toNat_zeroBit_append (x : BitVec 7) : (0#1 ++ x).toNat = x.toNat := by
  rw [BitVec.toNat_append]
  simp

/-! ## Command byte 0 -/

/-- Bits 7:5 of a frame's command byte (R92 to R99). -/
def Frame.kindBits : Frame → BitVec 3
  | .position _ _ => 0b100
  | .readParam _ _ => 0b101
  | .readEeprom _ => 0b101
  | .writeParam _ _ _ => 0b110
  | .writeEeprom _ _ => 0b110
  | .readId => 0b111
  | .writeId _ => 0b111

/-- Bits 4:0 of a frame's command byte: the servo id, all ones for an id read (R90, R98). -/
def Frame.lowBits : Frame → BitVec 5
  | .position id _ => id
  | .readParam id _ => id
  | .readEeprom id => id
  | .writeParam id _ _ => id
  | .writeEeprom id _ => id
  | .readId => 31
  | .writeId id => id

theorem encodeFrame_commandByte (f : Frame) :
    (encodeFrame f).getD 0 0x00#8 = f.kindBits ++ f.lowBits := by
  cases f <;> rfl

theorem lowBits_instrFrame {p : Params} {base : List Byte} {i : Instr} {id : Int} {f : Frame}
    (hid : idOperand i = some id) (hf : instrFrame p base i = some f) : f.lowBits = idBits id := by
  cases i <;> cases hid <;> cases hf <;> rfl

theorem idInRange_of_wellFormed {i : Instr} {id : Int} (hid : idOperand i = some id) (hw : i.wellFormed = true) :
    idInRange id = true := by
  cases i <;> cases hid <;> simp_all [Instr.wellFormed]

/-- An encoding is the frame of a well-formed operation (R102). -/
theorem encode_eq_some {p : Params} {base : List Byte} {i : Instr} {bytes : List Byte} :
    encode p base i = some bytes ↔
      i.wellFormed = true ∧ ∃ f, instrFrame p base i = some f ∧ encodeFrame f = bytes := by
  simp [encode]

/-- The command byte of an operation with an id operand: its frame's kind over the checked id (R90). -/
theorem encode_commandByte {p : Params} {base : List Byte} {i : Instr} {id : Int} {bytes : List Byte}
    (hid : idOperand i = some id) (h : encode p base i = some bytes) :
    idInRange id = true ∧ ∃ f, instrFrame p base i = some f ∧
      bytes.getD 0 0x00#8 = f.kindBits ++ idBits id := by
  obtain ⟨hw, f, hf, rfl⟩ := encode_eq_some.mp h
  exact ⟨idInRange_of_wellFormed hid hw, f, hf, by rw [encodeFrame_commandByte, lowBits_instrFrame hid hf]⟩

/-- A command byte is the kind's multiple of 32 plus the id. -/
theorem commandByte_toNat {id : Int} (h : idInRange id = true) (kind : BitVec 3) :
    ((kind ++ idBits id).toNat : Int) = id + kind.toNat * 32 := by
  obtain ⟨h0, -⟩ := idInRange_iff.mp h
  rw [BitVec.toNat_append, ← Nat.shiftLeft_add_eq_or_of_lt (idBits id).isLt, idBits_toNat h, Nat.shiftLeft_eq]
  omega

theorem commandByte_id {id : Int} (h : idInRange id = true) (kind : BitVec 3) :
    (((kind ++ idBits id).extractLsb' 0 5).toNat : Int) = id := by
  obtain ⟨h0, -⟩ := idInRange_iff.mp h
  rw [BitVec.extractLsb'_append_eq_right, idBits_toNat h]
  omega

/-- Settles O2: the command byte is the frame's kind over the id (`encode_commandByte`), and each operation's frame has
the kind R90 gives it. -/
theorem commandByteCarriesKindAndId : Obligations.CommandByteCarriesKindAndId := by
  intro p base i bytes h
  refine ⟨fun id hid => ?_, ?_⟩
  · obtain ⟨hr, f, hf, hbyte⟩ := encode_commandByte hid h
    obtain ⟨h0, h31⟩ := idInRange_iff.mp hr
    rw [hbyte]
    refine ⟨h0, h31, ?_, commandByte_id hr _⟩
    rw [commandByte_toNat hr]
    -- per operation: its frame's kind, times 32, is the constant R90 names
    cases i <;> cases hid <;> cases hf <;> rfl
  · rintro rfl
    cases h
    rfl

/-- Settles O3: each byte of format P is its bits appended, and the operands lose nothing in their widths. -/
theorem positionFrameCarriesThePosition : Obligations.PositionFrameCarriesThePosition := by
  intro id pos h0 h31 hp0 hpmax
  have hid := idBits_toNat (idInRange_iff.mpr ⟨h0, h31⟩)
  have hpos := posBits_toNat hp0 hpmax
  have hhigh : pos.toNat >>> 7 < 128 := by rw [Nat.shiftRight_eq_div_pow]; omega
  have hbyte0 : (0b100#3 ++ idBits id).toNat = 0x80 ||| id.toNat := by rw [BitVec.toNat_append, hid]; rfl
  have hbyte1 : (0#1 ++ (posBits pos).extractLsb' 7 7).toNat = pos.toNat >>> 7 := by
    rw [toNat_zeroBit_append, BitVec.extractLsb'_toNat, hpos, Nat.mod_eq_of_lt hhigh]
  have hbyte2 : (0#1 ++ (posBits pos).extractLsb' 0 7).toNat = pos.toNat &&& 0x7F := by
    rw [toNat_zeroBit_append, BitVec.extractLsb'_toNat, hpos, Nat.shiftRight_zero]
    exact (Nat.and_two_pow_sub_one_eq_mod pos.toNat 7).symm
  simp only [encodeFrame, List.map_cons, List.map_nil, hbyte0, hbyte1, hbyte2]
  exact ⟨trivial, hhigh⟩

/-! ## An operation refused in its first state -/

/-- An operation whose first state raises a failure ends with it. -/
theorem exec_eq_raiseFail {i : Instr} {s : State} {c : RetCode} (hidle : s.seq = .idle)
    (hinit : (requestOf i).op = .init ∨ s.initDone = true)
    (hfail : statesOf i (accept (requestOf i) s) = .next (raiseFail c (accept (requestOf i) s))) :
    exec i s = .next (raiseFail c (accept (requestOf i) s)) := by
  have hbusy : (accept (requestOf i) s).seq ≠ .idle := by cases i <;> simp [requestOf, entryState]
  have hbound : driveBound s = (255 + s.env.reads.length) + 1 := by simp only [driveBound]; omega
  rw [exec_eq_operate, operate_ready hidle hinit, hbound, drive_next hbusy hfail, drive_idle (raiseFail_seq _ _)]

/-- A failure raised in the first state has touched no port and no buffer (R342, R344). -/
theorem endsBeforeBus_raiseFail (i : Instr) (s : State) (c : RetCode) :
    EndsBeforeBus i s (raiseFail c (accept (requestOf i) s)) { ret := c } where
  idle := rfl
  dir := rfl
  txbuf := rfl
  rxbuf := rfl
  res := rfl
  env := rfl
  config := ⟨rfl, rfl, rfl, rfl⟩
  request := rfl

theorem entryState_of_idOperand {i : Instr} {id : Int} (hid : idOperand i = some id) :
    entryState (requestOf i).op = .admission := by
  cases i <;> cases hid <;> rfl

/-- The id check is the first one of every operation with an id operand (R342 step 2). -/
theorem statesOf_admission_of_id_out_of_range {i : Instr} {id : Int} {s : State} (hid : idOperand i = some id)
    (hr : idInRange id = false) (hs : s.seq = .admission) :
    statesOf i s = .next (raiseFail .invalidOption s) := by
  cases i <;> cases hid <;> simp [statesOf, setPosStates, setPosWeakStates, setPosWeakKeepStates, readParamStates,
    writeParamStates, readEepromStates, readEepromRawStates, writeEepromStates, isServoAliveStates, setIdStates, hs, hr]

theorem encode_eq_none_of_id_out_of_range {i : Instr} {id : Int} (hid : idOperand i = some id)
    (hr : idInRange id = false) (p : Params) (base : List Byte) : encode p base i = none := by
  rw [Option.eq_none_iff_forall_ne_some]
  intro bytes h
  simp [(encode_commandByte hid h).1] at hr

/-- Settles O9: an encoding carries its id (`encode_commandByte`); without one, the first state refuses the id. -/
theorem outOfRangeIdNeverReachesTheBus : Obligations.OutOfRangeIdNeverReachesTheBus := by
  intro i id hid
  refine ⟨fun _ p base bytes h => ?_, fun hr => ⟨encode_eq_none_of_id_out_of_range hid hr, fun s hidle hinit => ?_⟩⟩
  · obtain ⟨hr, f, -, hbyte⟩ := encode_commandByte hid h
    rw [hbyte, commandByte_id hr]
  · have hfail := statesOf_admission_of_id_out_of_range (s := accept (requestOf i) s) hid hr
      (entryState_of_idOperand hid)
    exact ⟨_, exec_eq_raiseFail hidle (.inr hinit) hfail, endsBeforeBus_raiseFail i s _⟩

end Sys2Proof
end

section
/-!
SUPPORT. EXCHANGE run on its own (R141, R143).
-/

namespace Sys2Proof

open Machine

theorem exchangeStates_eq {t : Turn} (u : State) (m : ExState) (h : u.seq = .exchange t m) :
    exchangeStates u = exchangeStep t m u := by simp [exchangeStates, h]

/-- The lengths EXCHANGE may be called with (R140). -/
theorem exLength_iff {n : BitVec 7} : exLength n = true ↔ 1 ≤ n.toNat ∧ n.toNat ≤ bufLen := by simp [exLength]

/-- A cleared buffer with bytes written from its start reads those bytes, and zero after them. -/
theorem memRead_memWriteList_memZero {bs : List Byte} (h : bs.length ≤ bufLen) (a : Nat) :
    memRead (memWriteList memZero 0 bs) a = bs.getD a 0x00#8 := by
  rw [memRead_memWriteList memZero_wf (by omega)]
  by_cases ha : a < bs.length <;> simp [ha]

/-- Settles O8: the three runs of EXCHANGE (`drive_exchange`, `drive_exchange_shortWrite`, `drive_exchange_shortRead`),
with the exchange states alone as the program. -/
theorem exchangeLeavesTheStateOfItsOutcome : Obligations.ExchangeLeavesTheStateOfItsOutcome := by
  intro s t command hs hn hm hc
  refine ⟨fun o e ho hr he => ?ok, fun w ws hw hlt => ?shortWrite, fun o e ho hr he => ?shortRead⟩
  case ok =>
    have hfits : o.response.length ≤ bufLen := hr.trans_le (exLength_iff.mp hm).2
    obtain ⟨k, -, hrun⟩ := drive_exchange exchangeStates_eq hs hn hm hc ho hr he
    exact ⟨0 + k, _, hrun 0, rfl, rfl, rfl, memRead_memWriteList_memZero hfits, rfl, rfl⟩
  case shortWrite =>
    exact ⟨0 + 5, _, drive_exchange_shortWrite exchangeStates_eq hs hn hc hw hlt 0, rfl, rfl, rfl, rfl, rfl, rfl⟩
  case shortRead =>
    obtain ⟨k, -, hrun⟩ := drive_exchange_shortRead exchangeStates_eq hs hn hm hc ho hr he
    exact ⟨0 + k, _, hrun 0, rfl, rfl, rfl, rfl, rfl, rfl⟩

end Sys2Proof
end

section
/-!
SUPPORT. Validation's mask (R271, R273) bit by bit, and WRITE_EEPROM of a record it refuses (R293).
-/

namespace Sys2Proof

open Machine

/-! ## The mask -/

theorem Field.mem_all (f : Field) : f ∈ Field.all := by cases f <;> decide

theorem Field.index_lt (f : Field) : f.index < 22 := by cases f <;> decide

/-- The fields own different bits of INVALID_MASK (R34, R35). -/
theorem Field.index_inj {f g : Field} : f.index = g.index ↔ f = g := by
  have h : ∀ f ∈ Field.all, ∀ g ∈ Field.all, f.index = g.index → f = g := by decide
  exact ⟨h f f.mem_all g g.mem_all, congrArg Field.index⟩

/-- Every bit of INVALID_MASK is a field's (R34, R35). -/
theorem Field.exists_index_eq {k : Nat} (hk : k < 22) : ∃ f : Field, f.index = k := by
  have h : ∀ k < 22, ∃ f ∈ Field.all, f.index = k := by decide
  obtain ⟨f, -, hf⟩ := h k hk
  exact ⟨f, hf⟩

/-- One turn of validation's loop (R271). -/
def markInvalid (mode : ValidationMode) (r : EepromRecord) (m : BitVec 22) (f : Field) : BitVec 22 :=
  if fieldInvalid mode r f then m ||| (1#22 <<< f.index) else m

theorem invalidMask_eq_foldl (mode : ValidationMode) (r : EepromRecord) :
    invalidMask mode r = Field.all.foldl (markInvalid mode r) 0 := rfl

/-- A turn of the loop sets its own field's bit, and that one alone. -/
theorem getLsbD_markInvalid (mode : ValidationMode) (r : EepromRecord) (m : BitVec 22) (f g : Field) :
    (markInvalid mode r m g).getLsbD f.index = (m.getLsbD f.index || (decide (f = g) && fieldInvalid mode r g)) := by
  cases h : fieldInvalid mode r g with
  | true => simp [markInvalid, h, ← BitVec.twoPow_eq, Field.index_lt, Field.index_inj]
  | false => simp [markInvalid, h]

theorem getLsbD_foldl_markInvalid (mode : ValidationMode) (r : EepromRecord) (f : Field) (fs : List Field)
    (m : BitVec 22) : (fs.foldl (markInvalid mode r) m).getLsbD f.index =
      (m.getLsbD f.index || (decide (f ∈ fs) && fieldInvalid mode r f)) := by
  induction fs generalizing m with
  | nil => simp
  | cons g gs ih =>
    rw [List.foldl_cons, ih, getLsbD_markInvalid]
    by_cases hfg : f = g
    · subst hfg
      cases m.getLsbD f.index <;> cases fieldInvalid mode r f <;> simp
    · simp [hfg]

/-- A field's bit of INVALID_MASK (R273). -/
theorem getLsbD_invalidMask (mode : ValidationMode) (r : EepromRecord) (f : Field) :
    (invalidMask mode r).getLsbD f.index = fieldInvalid mode r f := by
  simp [invalidMask_eq_foldl, getLsbD_foldl_markInvalid, f.mem_all]

theorem recordOk_iff {mode : ValidationMode} {r : EepromRecord} :
    recordOk mode r = true ↔ ∀ f, fieldInvalid mode r f = false := by
  simp only [recordOk, decide_eq_true_eq, ← getLsbD_invalidMask]
  refine ⟨fun h f => by rw [h]; exact BitVec.getLsbD_zero, fun h => BitVec.eq_of_getLsbD_eq fun k hk => ?_⟩
  obtain ⟨f, rfl⟩ := Field.exists_index_eq hk
  rw [h f]
  exact BitVec.getLsbD_zero.symm

/-- What a record that passes validation holds is in its range (R270). -/
theorem valueOk_of_recordOk {mode : ValidationMode} {r : EepromRecord} (h : recordOk mode r = true) {f : Field}
    {v : FieldValue} (hv : r.get f = some v) : valueOk mode f v = true := by
  simpa [fieldInvalid, hv] using recordOk_iff.mp h f

/-! ## A record that is refused -/

theorem statesOf_writeEeprom_admission {id : Int} {record : EepromRecord} {s : State} (hs : s.seq = .admission)
    (hid : idInRange id = true) : statesOf (.writeEeprom id record) s = .next (goto .validateRecord s) := by
  simp [statesOf, writeEepromStates, hs, hid]

theorem statesOf_writeEeprom_validateRecord_refused {id : Int} {record : EepromRecord} {s : State}
    (hs : s.seq = .validateRecord) (hrec : recordOk .write record = false) :
    statesOf (.writeEeprom id record) s = .next (raiseFail .eepromDataWrong (validate .write record s)) := by
  simp [statesOf, writeEepromStates, hs, hrec]

/-- WRITE_EEPROM of a record that WRITE validation refuses ends in its second state, with the mask in place (R293). -/
theorem exec_writeEeprom_of_record_refused {id : Int} {record : EepromRecord} {s : State} (hs : s.Ready)
    (hid : idInRange id = true) (hrec : recordOk .write record = false) :
    exec (.writeEeprom id record) s = .next (raiseFail .eepromDataWrong (validate .write record
      (goto .validateRecord (accept (requestOf (.writeEeprom id record)) s)))) := by
  have hbound : driveBound s = (254 + s.env.reads.length) + 1 + 1 := by simp only [driveBound]; omega
  have hseq : (accept (requestOf (.writeEeprom id record)) s).seq = .admission := rfl
  rw [exec_eq_operate, operate_ready hs.idle (.inr hs.initDone), hbound,
    drive_next (by rw [hseq]; decide) (statesOf_writeEeprom_admission hseq hid),
    drive_next (by simp) (statesOf_writeEeprom_validateRecord_refused (goto_seq _ _) hrec),
    drive_idle (raiseFail_seq _ _)]

/-- Settles O36: a field's bit is its violation (`getLsbD_invalidMask`), so the mask is zero without one
(`recordOk_iff`); the rule's own record is refused with both of its violations in the mask. -/
theorem maskHoldsEveryViolation : Obligations.MaskHoldsEveryViolation := by
  refine ⟨getLsbD_invalidMask, fun _ _ => recordOk_iff, fun id s hid hs => ?_⟩
  have hmask : invalidMask .write { stretch := some 0, offset := some 128 } = 0x020001#22 := by decide
  have hrec : recordOk .write { stretch := some 0, offset := some 128 } = false := by simp [recordOk, hmask]
  exact ⟨_, exec_writeEeprom_of_record_refused hs hid hrec, rfl, hmask⟩

end Sys2Proof
end

section
/-!
SUPPORT. The offset's sign convention in arithmetic (R252, R263, R277).
-/

namespace Sys2Proof

open Machine

theorem xor_127_of_lt {x : Nat} (h : x < 128) : x ^^^ 0x7F = 127 - x := by
  revert x
  decide

/-- The sign convention beyond a byte too (R252). -/
theorem decodeOffset_eq (r : Nat) :
    decodeOffset r = if r.testBit 7 then 128 - ((r % 128 : Nat) : Int) else -(r : Int) := by
  have hlow : r &&& 0x7F = r % 128 := Nat.and_two_pow_sub_one_eq_mod r 7
  have hlt : r % 128 < 128 := Nat.mod_lt r (by decide)
  unfold decodeOffset
  split
  · rw [hlow, xor_127_of_lt hlt]
    omega
  · omega

/-- A stored offset byte is minus its two's complement reading (R252). -/
theorem decodeOffset_of_byte {r : Nat} (h : r < 256) :
    decodeOffset r = if 128 ≤ r then 256 - (r : Int) else -(r : Int) := by
  have hbit : r.testBit 7 = decide (128 ≤ r) := by
    rw [Nat.testBit_eq_decide_div_mod_eq]
    exact decide_eq_decide.mpr (by omega)
  rw [decodeOffset_eq, hbit]
  simp only [decide_eq_true_eq]
  split <;> omega

theorem encodeOffset_lt (v : Int) : encodeOffset v < 256 := by
  unfold encodeOffset
  omega

theorem decodeOffset_encodeOffset {v : Int} (hlo : -127 ≤ v) (hhi : v ≤ 127) :
    decodeOffset (encodeOffset v) = v := by
  rw [decodeOffset_of_byte (encodeOffset_lt v)]
  unfold encodeOffset
  split <;> omega

/-- Settles O34: the code of a value in range reads back (`decodeOffset_encodeOffset`), and 0x80 is the code of no value
in range. -/
theorem offsetCodeRoundTrips : Obligations.OffsetCodeRoundTrips := by
  intro v hlo hhi
  refine ⟨decodeOffset_encodeOffset hlo hhi, encodeOffset_lt v, ?_⟩
  unfold encodeOffset
  omega

/-- Settles O35: the convention in arithmetic (`decodeOffset_eq`, `decodeOffset_of_byte`), and the range of the offset
in both modes (R270). -/
theorem offsetDecodesByItsSignConvention : Obligations.OffsetDecodesByItsSignConvention := by
  refine ⟨fun _ _ _ => rfl, fun mode v hv => ?_, fun r hr => ?_, decodeOffset_eq⟩
  · have hrange : numInRange mode .offset v = false := by
      simp only [numInRange, Bool.and_eq_false_iff, decide_eq_false_iff_not]
      omega
    simp [fieldInvalid, EepromRecord.get, valueOk, hrange]
  · rw [decodeOffset_of_byte hr, BitVec.toInt_eq_toNat_cond, BitVec.toNat_ofNat]
    split <;> split <;> omega

end Sys2Proof
end

section
/-!
SUPPORT. Each field of an EEPROM record through its group: what the encoder writes for it and what the decoder reads
back (R234 to R268), the flags by their bits and every other field by the code of its value.
-/

namespace Sys2Proof

open Machine

/-! ## The flags byte -/

/-- A flag's write changes its own bit, to what the record requests (R265). -/
theorem getLsbD_setFlag (bit : Nat) (request : Option Bool) (fl : BitVec 8) {k : Nat} (hk : k < 8) :
    (setFlag bit request fl).getLsbD k = if k = bit then request.getD (fl.getLsbD k) else fl.getLsbD k := by
  by_cases h : k = bit
  · subst h
    rcases request with _ | _ | _ <;> simp [setFlag, ← BitVec.twoPow_eq, hk]
  · rcases request with _ | _ | _ <;> simp [setFlag, ← BitVec.twoPow_eq, hk, h]

/-- What a record requests of a bit of the flags byte (R265); nothing of free's (R267). -/
def requestedBit (b : FlagBits) (r : EepromRecord) (k : Nat) : Option Bool :=
  if k = b.slave then r.slave else if k = b.rotation then r.rotation
  else if k = b.pwminhibit then r.pwminhibit else if k = b.reverse then r.reverse else none

theorem encodeFlags_lt {b : FlagBits} {r : EepromRecord} {n v : Nat} (h : encodeFlags b r n = some v) : v < 256 := by
  unfold encodeFlags at h
  split at h
  · cases h
    exact BitVec.isLt _
  · cases h

theorem flagBits_distinct {b : FlagBits} (hb : b.ok = true) :
    [b.slave, b.rotation, b.pwminhibit, b.free, b.reverse].Nodup := by
  simp only [FlagBits.ok, Bool.and_eq_true, decide_eq_true_eq] at hb
  exact hb.2

/-- A bit of the flags byte after the encoder: what the record requests, else the baseline's (R265). -/
theorem testBit_encodeFlags {b : FlagBits} (hb : b.ok = true) (r : EepromRecord) (n : Nat) {k : Nat} (hk : k < 8) :
    ((encodeFlags b r n).getD n).testBit k = (requestedBit b r k).getD (n.testBit k) := by
  have hdistinct := flagBits_distinct hb
  simp only [List.nodup_cons, List.mem_cons, List.not_mem_nil, or_false, not_or] at hdistinct
  unfold encodeFlags requestedBit
  split
  · -- the bits are distinct, so at most one of the four flags' writes falls on bit k
    have hbase : (BitVec.ofNat 8 n).getLsbD k = n.testBit k := by rw [BitVec.getLsbD_ofNat]; simp [hk]
    simp only [Option.getD_some, BitVec.testBit_toNat, getLsbD_setFlag _ _ _ hk, hbase]
    grind
  · rename_i hnone
    simp only [Bool.or_eq_true, not_or, Bool.not_eq_true, Option.isSome_eq_false_iff, Option.isNone_iff_eq_none]
      at hnone
    simp [hnone]

/-! ## A field's group, flag bit and code -/

/-- The group a field stands in (R120, R121). -/
def Field.group : Field → Group
  | .stretch => .stretch | .speed => .speed | .punch => .punch | .deadband => .deadband | .dumping => .dumping
  | .safetimer => .safetimer
  | .slave | .rotation | .pwminhibit | .free | .reverse => .flags
  | .poslimithigh => .poslimithigh | .poslimitlow => .poslimitlow | .commspeed => .commspeed
  | .temperaturelimit => .temperaturelimit | .currentlimit => .currentlimit | .response => .response
  | .offset => .offset | .id => .id
  | .charstretch1 => .charstretch1 | .charstretch2 => .charstretch2 | .charstretch3 => .charstretch3

/-- The bit of the flags byte a flag owns (R121), `none` for a field that is no flag. -/
def Field.flagBit (b : FlagBits) : Field → Option Nat
  | .slave => some b.slave | .rotation => some b.rotation | .pwminhibit => some b.pwminhibit
  | .free => some b.free | .reverse => some b.reverse
  | _ => none

/-- The code of a number in its field's group (R261 to R264, R266). -/
def Field.encode (f : Field) (v : Int) : Option Nat :=
  match f with
  | .stretch | .charstretch1 | .charstretch2 | .charstretch3 => some (encodeDoubled v)
  | .commspeed => encodeCommspeed v
  | .offset => some (encodeOffset v)
  | _ => some (encodePlain v)

/-- The number a field's group stands for (R234 to R256). -/
def Field.decode (f : Field) (n : Nat) : Option Int :=
  match f with
  | .stretch | .charstretch1 | .charstretch2 | .charstretch3 => some (n / 2 : Nat)
  | .commspeed => decodeCommspeed n
  | .offset => some (decodeOffset n)
  | _ => some n

/-- A record without what it says of free (R267). -/
def EepromRecord.withoutFree (r : EepromRecord) : EepromRecord := { r with free := none }

theorem get_withoutFree (r : EepromRecord) (f : Field) :
    r.withoutFree.get f = if f = .free then none else r.get f := by
  cases f <;> rfl

theorem get_decodeRecord_of_flag {b : FlagBits} {f : Field} {k : Nat} (hf : f.flagBit b = some k) (l : Layout)
    (frame : List Byte) :
    (decodeRecord l b frame).get f = some (.flag ((getGroup l frame .flags).testBit k)) := by
  cases f <;> cases hf <;> rfl

theorem get_decodeRecord_of_number {b : FlagBits} {f : Field} (hf : f.flagBit b = none) (l : Layout)
    (frame : List Byte) :
    (decodeRecord l b frame).get f = (f.decode (getGroup l frame f.group)).map .num := by
  cases f <;> cases hf <;> rfl

theorem flagBit_lt {b : FlagBits} (hb : b.ok = true) {f : Field} {k : Nat} (hf : f.flagBit b = some k) : k < 8 := by
  simp only [FlagBits.ok, List.all_cons, List.all_nil, Bool.and_eq_true, decide_eq_true_eq] at hb
  obtain ⟨⟨hslave, hrotation, hpwminhibit, hfree, hreverse, -⟩, -⟩ := hb
  cases f <;> cases hf <;> assumption

/-- What is requested of a flag's bit is what the record says of the flag, free apart (R265, R267). -/
theorem get_withoutFree_of_flag {b : FlagBits} (hb : b.ok = true) {f : Field} {k : Nat} (hf : f.flagBit b = some k)
    (r : EepromRecord) : r.withoutFree.get f = (requestedBit b r k).map .flag := by
  have hdistinct := flagBits_distinct hb
  simp only [List.nodup_cons, List.mem_cons, List.not_mem_nil, or_false, not_or] at hdistinct
  cases f <;> cases hf <;>
    simp [EepromRecord.get, EepromRecord.withoutFree, requestedBit, hdistinct, eq_comm]

/-- A field that is no flag holds a number, and the encoder writes the number's code into the field's group (R260 to
R266). -/
theorem exists_number {b : FlagBits} {f : Field} (hf : f.flagBit b = none) (l : Layout) (r : EepromRecord)
    (base : List Byte) :
    ∃ o : Option Int, r.get f = o.map .num ∧ groupValue l b r base f.group = o.bind f.encode := by
  cases f <;> cases hf <;> exact ⟨_, rfl, by simp only [groupValue, Field.group, Option.map_eq_bind]; rfl⟩

/-! ## The codes round-trip -/

theorem encodePlain_decodes {v : Int} (h : 0 ≤ v) : ((encodePlain v : Nat) : Int) = v := Int.toNat_of_nonneg h

theorem encodeDoubled_decodes {v : Int} (h : 0 ≤ v) : ((encodeDoubled v / 2 : Nat) : Int) = v := by
  unfold encodeDoubled
  omega

/-- The code of a number in its WRITE range fits its group and reads back (R275, R277). -/
theorem encode_decodes {b : FlagBits} {f : Field} (hf : f.flagBit b = none) {v : Int}
    (hv : numInRange .write f v = true) :
    ∃ c, f.encode v = some c ∧ c < groupBound f.group ∧ f.decode c = some v := by
  cases f <;> cases hf
  case commspeed =>
    simp only [numInRange, Bool.or_eq_true, decide_eq_true_eq] at hv
    rcases hv with (rfl | rfl) | rfl <;> exact ⟨_, rfl, by decide, rfl⟩
  case offset =>
    simp only [numInRange, Bool.and_eq_true, decide_eq_true_eq] at hv
    exact ⟨_, rfl, (encodeOffset_lt v).trans (by decide), congrArg some (decodeOffset_encodeOffset hv.1 hv.2)⟩
  case stretch | charstretch1 | charstretch2 | charstretch3 =>
    simp only [numInRange, Bool.and_eq_true, decide_eq_true_eq] at hv
    refine ⟨_, rfl, ?_, congrArg some (encodeDoubled_decodes (by omega))⟩
    simp only [encodeDoubled, Field.group, groupBound]
    omega
  all_goals
    simp only [numInRange, Bool.and_eq_true, decide_eq_true_eq] at hv
    refine ⟨_, rfl, ?_, congrArg some (encodePlain_decodes (by omega))⟩
    simp only [encodePlain, Field.group, groupBound]
    omega

/-! ## The block written and read -/

section

variable {l : Layout} {b : FlagBits} {r : EepromRecord} {base : List Byte}

/-- The flags group of the write frame, for any record (R265, R267). -/
theorem testBit_flags_encodeRecord (hl : l.ok = true) (hb : b.ok = true) (hbase : base.length = 66) (id : Int) {k : Nat}
    (hk : k < 8) : (getGroup l (encodeRecord l b r base id) .flags).testBit k =
      (requestedBit b r k).getD ((getGroup l base .flags).testBit k) := by
  have hbound : ∀ v, groupValue l b r base .flags = some v → v < groupBound .flags :=
    fun v hv => (encodeFlags_lt hv).trans (by decide)
  rw [getGroup_encodeRecord hl hbase hbound]
  exact testBit_encodeFlags hb r _ hk

/-- The group of a number in the write frame decodes to what the record requests, else to what the baseline's does. -/
theorem decode_group_encodeRecord (hl : l.ok = true) (hbase : base.length = 66) (hr : recordOk .write r = true)
    {f : Field} (hf : f.flagBit b = none) (id : Int) :
    (f.decode (getGroup l (encodeRecord l b r base id) f.group)).map .num =
      (r.get f).or ((f.decode (getGroup l base f.group)).map .num) := by
  obtain ⟨o, hget, hgroup⟩ := exists_number hf l r base
  cases o with
  | none => rw [getGroup_encodeRecord hl hbase (by simp [hgroup]), hgroup, hget]; rfl
  | some v =>
    obtain ⟨c, hc, hlt, hdec⟩ := encode_decodes hf (valueOk_of_recordOk hr hget)
    have hwritten : groupValue l b r base f.group = some c := hgroup.trans hc
    rw [getGroup_encodeRecord hl hbase (by simp [hwritten, hlt]), hwritten, hget, Option.getD_some, hdec]
    rfl

/-- The decoding of the write frame, field by field: what the record requests, free apart, else the baseline's value
(R275). -/
theorem get_decodeRecord_encodeRecord (hl : l.ok = true) (hb : b.ok = true) (hbase : base.length = 66)
    (hr : recordOk .write r = true) (id : Int) (f : Field) :
    (decodeRecord l b (encodeRecord l b r base id)).get f =
      (r.withoutFree.get f).or ((decodeRecord l b base).get f) := by
  cases hf : f.flagBit b with
  | none =>
    have hfree : f ≠ .free := by rintro rfl; cases hf
    rw [get_decodeRecord_of_number hf, get_decodeRecord_of_number hf, decode_group_encodeRecord hl hbase hr hf,
      get_withoutFree, if_neg hfree]
  | some k =>
    rw [get_decodeRecord_of_flag hf, get_decodeRecord_of_flag hf,
      testBit_flags_encodeRecord hl hb hbase id (flagBit_lt hb hf), get_withoutFree_of_flag hb hf]
    cases requestedBit b r k <;> rfl

/-- No rule of the encoder reads free (R267). -/
theorem encodeRecord_free (l : Layout) (b : FlagBits) (r : EepromRecord) (base : List Byte) (id : Int)
    (v : Option Bool) : encodeRecord l b { r with free := v } base id = encodeRecord l b r base id := by
  have hvalue : groupValue l b { r with free := v } base = groupValue l b r base := by
    funext g
    cases g <;> rfl
  have hturn : encodeGroup l b { r with free := v } base = encodeGroup l b r base := by
    funext frame g
    simp only [encodeGroup, hvalue]
  simp only [encodeRecord, hturn]

end

/-- Settles O30: each field of the decoded write frame is the record's, free apart, or the baseline's
(`get_decodeRecord_encodeRecord`). -/
theorem codecRoundTrip : Obligations.CodecRoundTrip := by
  intro l b r base id hl hb hbase hr out
  have hout := get_decodeRecord_encodeRecord hl hb hbase hr id
  refine ⟨fun f v hf hv => ?_, fun f hnone => ?_, ?_⟩
  · rw [hout, get_withoutFree, if_neg hf, hv]
    rfl
  · rw [hout, get_withoutFree, hnone, ite_self]
    rfl
  · have hfree := hout .free
    rw [get_withoutFree, if_pos rfl] at hfree
    exact Option.map_injective (fun _ _ => FieldValue.flag.inj) hfree

/-- Settles O32: no group's value depends on free (`encodeRecord_free`), and nothing is requested of free's bit
(`testBit_flags_encodeRecord`). -/
theorem freeFlagIsNeverWritten : Obligations.FreeFlagIsNeverWritten := by
  intro l b r base id v hl hb hbase
  have hflag : Field.free.flagBit b = some b.free := rfl
  have hnot : requestedBit b r b.free = none :=
    Option.map_eq_none_iff.mp ((get_withoutFree_of_flag hb hflag r).symm.trans (get_withoutFree r .free))
  refine ⟨encodeRecord_free l b r base id v, ?_⟩
  rw [testBit_flags_encodeRecord hl hb hbase id (flagBit_lt hb hflag), hnot]
  rfl

end Sys2Proof
end

section
/-!
SUPPORT. Runs measured as `driveBound` measures them, and one EXCHANGE inside an operation: the command it is called
with, and what every operation keeps through it (R140 to R144).
-/

namespace Sys2Proof

open Machine

/-! ## Runs -/

/-- From s the states of prog come to t, in at most c of them beside one for each answer of `Bus.read` taken
(notes/assumptions/16.md). -/
def Runs (prog : State → Micro) (c : Nat) (s t : State) : Prop :=
  ∃ k, k + t.env.reads.length ≤ c + s.env.reads.length ∧ ∀ n, drive prog (n + k) s = drive prog n t

section

variable {prog : State → Micro} {c d : Nat} {s t u : State}

theorem Runs.trans (hst : Runs prog c s t) (htu : Runs prog d t u) : Runs prog (c + d) s u := by
  obtain ⟨j, hj, hrunj⟩ := hst
  obtain ⟨k, hk, hrunk⟩ := htu
  exact ⟨k + j, by omega, fun n => by rw [← Nat.add_assoc, hrunj, hrunk]⟩

/-- One state that takes no answer of `Bus.read`. -/
theorem Runs.one (hbusy : s.seq ≠ .idle) (hstep : prog s = .next t) (hreads : t.env.reads = s.env.reads) :
    Runs prog 1 s t :=
  ⟨1, by rw [hreads], fun n => drive_next hbusy hstep n⟩

/-- A run that comes to IDLE within the bound is the operation's outcome. -/
theorem Runs.drive_eq (h : Runs prog c s t) (hc : c ≤ 256) (hidle : t.seq = .idle) :
    drive prog (driveBound s) s = .next t := by
  obtain ⟨k, hk, hrun⟩ := h
  have hbound : driveBound s = (driveBound s - k) + k := by
    simp only [driveBound]
    omega
  rw [hbound, hrun, drive_idle hidle]

end

theorem exec_eq_of_runs {i : Instr} {s t : State} {c : Nat} (hs : s.Ready)
    (h : Runs (statesOf i) c (accept (requestOf i) s) t) (hc : c ≤ 256) (hidle : t.seq = .idle) :
    exec i s = .next t := by
  rw [exec_eq_operate, operate_ready hs.idle (.inr hs.initDone)]
  exact h.drive_eq hc hidle

/-! ## An EXCHANGE called with its command -/

/-- EXCHANGE has been called, with the command in TXBUF and m bytes asked for (R140). -/
structure Loaded (t : Turn) (command : List Byte) (m : Nat) (s : State) : Prop where
  seq : s.seq = .exchange t .dirOn
  exN : s.latch.exN.toNat = command.length
  exM : s.latch.exM.toNat = m
  writable : exLength s.latch.exN = true
  readable : exLength s.latch.exM = true
  command : memReadList s.txbuf 0 s.latch.exN.toNat = command

theorem loaded_callExchange {t : Turn} {command : List Byte} {m : Nat} {s : State}
    (hcommand : memReadList s.txbuf 0 command.length = command)
    (hn : 1 ≤ command.length ∧ command.length ≤ bufLen) (hm : 1 ≤ m ∧ m ≤ bufLen) :
    Loaded t command m (callExchange t command.length m s) := by
  have hfits : ∀ n, n ≤ bufLen → (BitVec.ofNat 7 n).toNat = n := fun n hle =>
    Nat.mod_eq_of_lt (Nat.lt_of_le_of_lt hle (by decide))
  have hN := hfits _ hn.2
  have hM := hfits _ hm.2
  exact ⟨rfl, hN, hM, exLength_iff.mpr (by rwa [callExchange_latch, hN]),
    exLength_iff.mpr (by rwa [callExchange_latch, hM]), by rwa [callExchange_latch, hN]⟩

theorem loaded_sendFrame {t : Turn} {f : Frame} {m : Nat} {s : State} (htx : s.txbuf.wf = true)
    (hn : 1 ≤ (encodeFrame f).length ∧ (encodeFrame f).length ≤ bufLen) (hm : 1 ≤ m ∧ m ≤ bufLen) :
    Loaded t (encodeFrame f) m (sendFrame t f m s) :=
  loaded_callExchange (memReadList_memWriteList htx (by omega)) hn hm

section

variable {prog : State → Micro} {t : Turn} {command : List Byte} {m : Nat} {s : State} {o : Offer} {e : Env}

/-- The answers an EXCHANGE takes from its offer pay for its drain (R142). -/
theorem exchange_states_le_offer_reads {n k : Nat} (he : s.env = o.before s.cfgDrain n e)
    (hk : k ≤ 9 + (match s.cfgDrain with | .off => 0 | .loop => o.stale.length)) :
    k + e.reads.length ≤ 8 + s.env.reads.length := by
  rw [he]
  cases hd : s.cfgDrain <;> simp only [hd] at hk <;> simp [Offer.before] <;> omega

/-- The port actions made do not touch what the transport has still to answer. -/
theorem before_did (d : Drain) (n : Nat) (o : Offer) (e : Env) (actions : List PortAction) :
    (o.before d n e).did actions = o.before d n (e.did actions) := by
  cases d <;> rfl

/-- `drive_exchange` as a run. -/
theorem Loaded.runs_done (h : Loaded t command m s)
    (hprog : ∀ u x, u.seq = .exchange t x → prog u = exchangeStep t x u) (ho : o.drains)
    (hr : o.response.length = m) (he : s.env = o.before s.cfgDrain command.length e) :
    Runs prog 8 s (exchangeDone t command o e s) := by
  rw [← h.exN] at he
  obtain ⟨k, hk, hrun⟩ :=
    drive_exchange hprog h.seq h.writable h.readable h.command ho (hr.trans h.exM.symm) he
  exact ⟨k, (exchange_states_le_offer_reads he hk :), hrun⟩

/-- `drive_exchange_shortRead` as a run. -/
theorem Loaded.runs_shortRead (h : Loaded t command m s)
    (hprog : ∀ u x, u.seq = .exchange t x → prog u = exchangeStep t x u) (ho : o.drains)
    (hr : o.response.length < m) (he : s.env = o.before s.cfgDrain command.length e) :
    Runs prog 8 s (exchangeShortRead t command o e s) := by
  rw [← h.exN] at he
  obtain ⟨k, hk, hrun⟩ :=
    drive_exchange_shortRead hprog h.seq h.writable h.readable h.command ho (hr.trans_eq h.exM.symm) he
  exact ⟨k, (exchange_states_le_offer_reads he hk :), hrun⟩

/-- `drive_exchange_shortWrite` as a run. -/
theorem Loaded.runs_shortWrite (h : Loaded t command m s)
    (hprog : ∀ u x, u.seq = .exchange t x → prog u = exchangeStep t x u) {w : Nat} {ws : List Nat}
    (hw : s.env.writes = w :: ws) (hlt : w < command.length) :
    Runs prog 5 s (exchangeShortWrite t command w ws s) :=
  ⟨5, le_refl _, drive_exchange_shortWrite hprog h.seq h.writable h.command hw (hlt.trans_eq h.exN.symm)⟩

end

/-! ## What an operation keeps, and how it ends -/

/-- u is s while the bus operation i runs, no record refused so far: the configuration is unchanged (R25), the latches
hold i (R27), and INVALID_MASK will end as 0 (R343, R344). -/
structure Underway (i : Instr) (s u : State) : Prop where
  config : SameConfig s u
  request : latchedRequest u = some (requestOf i)
  mask : finalMask u = 0

theorem Machine.SameConfig.trans {s u v : State} (hsu : SameConfig s u) (huv : SameConfig u v) : SameConfig s v :=
  ⟨huv.cfgBaud.trans hsu.cfgBaud, huv.cfgDrain.trans hsu.cfgDrain, huv.initDone.trans hsu.initDone,
    huv.params.trans hsu.params⟩

theorem Underway.congr {i : Instr} {s u v : State} (h : Underway i s u) (hconfig : SameConfig u v)
    (hrequest : latchedRequest v = latchedRequest u) (hmask : finalMask v = finalMask u) : Underway i s v :=
  ⟨h.config.trans hconfig, hrequest.trans h.request, hmask.trans h.mask⟩

/-- An EXCHANGE of i has returned (R143): DIR released, TXBUF clear, RXBUF holding the response and zero after it. -/
structure Exchanged (i : Instr) (s u : State) (response : List Byte) : Prop extends Underway i s u where
  dir : u.dir = false
  txbuf : u.txbuf = memZero
  rxbuf : ∀ a, memRead u.rxbuf a = response.getD a 0x00#8

section

variable {i : Instr} {s u : State} {response : List Byte}

theorem Underway.exchanged_done (h : Underway i s u) (t : Turn) (command : List Byte) {o : Offer} (e : Env)
    (hfits : o.response.length ≤ bufLen) :
    Exchanged i s (exchangeDone t command o e u) o.response :=
  ⟨h.congr ⟨rfl, rfl, rfl, rfl⟩ rfl rfl, rfl, rfl, memRead_memWriteList_memZero hfits⟩

theorem Underway.exchanged_shortRead (h : Underway i s u) (t : Turn) (command : List Byte) (o : Offer) (e : Env) :
    Exchanged i s (exchangeShortRead t command o e u) [] :=
  ⟨h.congr ⟨rfl, rfl, rfl, rfl⟩ rfl rfl, rfl, rfl, fun _ => rfl⟩

theorem Underway.exchanged_shortWrite (h : Underway i s u) (t : Turn) (command : List Byte) (w : Nat)
    (ws : List Nat) :
    Exchanged i s (exchangeShortWrite t command w ws u) [] :=
  ⟨h.congr ⟨rfl, rfl, rfl, rfl⟩ rfl rfl, rfl, rfl, fun _ => rfl⟩

theorem Exchanged.endsWith_raiseFail (h : Exchanged i s u response) (c : RetCode) :
    EndsWith i s (raiseFail c u) { ret := c } response u.env :=
  ⟨rfl, h.dir, h.txbuf, h.rxbuf, by rw [raiseFail_res, h.mask], rfl,
    h.config.trans ⟨rfl, rfl, rfl, rfl⟩, h.request⟩

theorem Exchanged.endsWith_completePlain (h : Exchanged i s u response) :
    EndsWith i s (completePlain u) { ret := .ok } response u.env :=
  ⟨rfl, h.dir, h.txbuf, h.rxbuf, by rw [completePlain_res, h.mask], rfl,
    h.config.trans ⟨rfl, rfl, rfl, rfl⟩, h.request⟩

/-- A whole block received is what the decoder and the encoder read. -/
theorem Exchanged.rxBlock_eq (h : Exchanged i s u response) (hlen : response.length = 66) :
    rxBlock u = response := by
  have hread : memReadList u.rxbuf 0 response.length = response :=
    memReadList_eq fun k _ => by rw [h.rxbuf, Nat.zero_add]
  rwa [hlen] at hread

/-- ER_CHECK on a block received is R100's check of the response. -/
theorem Exchanged.blockResponse_eq (h : Exchanged i s u response) (hret : u.latch.exRet = .ok) (id : Int) :
    blockResponse id u = blockCheck id response := by
  simp only [blockResponse, exchangeResult, hret, if_true, rx, h.rxbuf]
  rfl

/-- The header expected passes its check (R100). -/
theorem checkHdr_self (b : Byte) : checkHdr b b 0xFF#8 = .ok () :=
  if_pos BitVec.and_allOnes

/-- W_RESP accepts the header and the sub-code of a format-EW response (R97, R293). -/
theorem Exchanged.blockWriteResponse_ok {id : Int} (h : Exchanged i s u [0x40#8 ||| BitVec.ofInt 8 id, 0x00#8])
    (hret : u.latch.exRet = .ok) : blockWriteResponse id u = .ok () := by
  simp only [blockWriteResponse, exchangeResult, hret, if_true, rx, h.rxbuf, List.getD_cons_zero, List.getD_cons_succ,
    checkHdr_self]
  rfl

end

/-- A failed EXCHANGE fails the block checks with its own code (R290, R344). -/
theorem blockResponse_of_failed {u : State} {c : RetCode} (hret : u.latch.exRet = c) (hc : c ≠ .ok) (id : Int) :
    blockResponse id u = .error c := by
  simp only [blockResponse, exchangeResult, hret, if_neg hc]
  rfl

end Sys2Proof
end

section
/-!
SUPPORT. WRITE_EEPROM state by state (R293), and its two exchanges as one run (R294).
-/

namespace Sys2Proof

open Machine

section

variable {id : Int} {record : EepromRecord} {s u : State}

/-! ## The states -/

theorem statesOf_writeEeprom_validateRecord_accepted (hs : s.seq = .validateRecord)
    (hrec : recordOk .write record = true) :
    statesOf (.writeEeprom id record) s = .next (goto (.build .first) (validate .write record s)) := by
  simp [statesOf, writeEepromStates, hs, hrec]

theorem statesOf_writeEeprom_build_first (hs : s.seq = .build .first) :
    statesOf (.writeEeprom id record) s = .next (sendFrame .first (.readEeprom (idBits id)) 66 s) := by
  simp [statesOf, writeEepromStates, hs]

theorem statesOf_writeEeprom_check_first (hs : s.seq = .check .first) :
    statesOf (.writeEeprom id record) s =
      .next (checked (blockResponse id s) (fun _ => goto .encodeBlock) s) := by
  simp [statesOf, writeEepromStates, hs]

theorem statesOf_writeEeprom_encodeBlock (hs : s.seq = .encodeBlock) :
    statesOf (.writeEeprom id record) s = .next (goto (.build .second) (encodeBlock id record s)) := by
  simp [statesOf, writeEepromStates, hs]

theorem statesOf_writeEeprom_build_second (hs : s.seq = .build .second) :
    statesOf (.writeEeprom id record) s = .next (callExchange .second 66 2 s) := by
  simp [statesOf, writeEepromStates, hs]

theorem statesOf_writeEeprom_check_second (hs : s.seq = .check .second) :
    statesOf (.writeEeprom id record) s =
      .next (checked (blockWriteResponse id s) (fun _ => completePlain) s) := by
  simp [statesOf, writeEepromStates, hs]

theorem writeEeprom_exchange_first (id : Int) (record : EepromRecord) (u : State) (m : ExState)
    (hu : u.seq = .exchange .first m) : statesOf (.writeEeprom id record) u = exchangeStep .first m u :=
  statesOf_exchange_first rfl hu

theorem writeEeprom_exchange_second (id : Int) (record : EepromRecord) (u : State) (m : ExState)
    (hu : u.seq = .exchange .second m) : statesOf (.writeEeprom id record) u = exchangeStep .second m u :=
  statesOf_exchange_second rfl hu

/-! ## The read exchange -/

/-- WRITE_EEPROM of an admitted record, its read command in TXBUF (W_READ). -/
def writeEepromReading (id : Int) (record : EepromRecord) (s : State) : State :=
  sendFrame .first (.readEeprom (idBits id)) 66 (goto (.build .first) (validate .write record
    (goto .validateRecord (accept (requestOf (.writeEeprom id record)) s))))

theorem runs_writeEepromReading (hid : idInRange id = true) (hrec : recordOk .write record = true) (s : State) :
    Runs (statesOf (.writeEeprom id record)) (1 + 1 + 1) (accept (requestOf (.writeEeprom id record)) s)
      (writeEepromReading id record s) := by
  have hadmit := statesOf_writeEeprom_admission (record := record)
    (s := accept (requestOf (.writeEeprom id record)) s) rfl hid
  exact ((Runs.one (by simp [requestOf, entryState]) hadmit rfl).trans
    (.one (by simp) (statesOf_writeEeprom_validateRecord_accepted rfl hrec) rfl)).trans
      (.one (by simp) (statesOf_writeEeprom_build_first rfl) rfl)

theorem loaded_writeEepromReading (id : Int) (record : EepromRecord) (hs : s.Ready) :
    Loaded .first (encodeFrame (.readEeprom (idBits id))) 66 (writeEepromReading id record s) :=
  loaded_sendFrame hs.txWf (by simp [encodeFrame, bufLen]) (by decide)

theorem underway_writeEepromReading (id : Int) (hrec : recordOk .write record = true) (s : State) :
    Underway (.writeEeprom id record) s (writeEepromReading id record s) :=
  ⟨⟨rfl, rfl, rfl, rfl⟩, rfl, of_decide_eq_true hrec⟩

/-- A read exchange that fails, or whose block fails a check, is the only one of the operation (R294). -/
theorem writeEeprom_endsWith_of_read_failed (hs : s.Ready) (hid : idInRange id = true)
    (hrec : recordOk .write record = true) {n : Nat} {response : List Byte} {c : RetCode} (hn : n ≤ 8)
    (hrun : Runs (statesOf (.writeEeprom id record)) n (writeEepromReading id record s) u)
    (hseq : u.seq = .check .first) (hu : Exchanged (.writeEeprom id record) s u response)
    (hcheck : blockResponse id u = .error c) :
    ∃ t, exec (.writeEeprom id record) s = .next t ∧
      EndsWith (.writeEeprom id record) s t { ret := c } response u.env := by
  have hfail : statesOf (.writeEeprom id record) u = .next (raiseFail c u) := by
    rw [statesOf_writeEeprom_check_first hseq, hcheck, checked_error]
  have hall := ((runs_writeEepromReading hid hrec s).trans hrun).trans (.one (by simp [hseq]) hfail rfl)
  exact ⟨_, exec_eq_of_runs hs hall (by omega) rfl, hu.endsWith_raiseFail c⟩

/-! ## The write exchange -/

/-- WRITE_EEPROM with its write frame in TXBUF, encoded over the block u has read (W_WRITE). -/
def writeEepromWriting (id : Int) (record : EepromRecord) (u : State) : State :=
  callExchange .second 66 2 (goto (.build .second) (encodeBlock id record (goto .encodeBlock u)))

theorem runs_writeEepromWriting (hseq : u.seq = .check .first) (hcheck : blockResponse id u = .ok ()) :
    Runs (statesOf (.writeEeprom id record)) (1 + 1 + 1) u (writeEepromWriting id record u) := by
  have hpass : statesOf (.writeEeprom id record) u = .next (goto .encodeBlock u) := by
    rw [statesOf_writeEeprom_check_first hseq, hcheck, checked_ok]
  exact ((Runs.one (by simp [hseq]) hpass rfl).trans
    (.one (by simp) (statesOf_writeEeprom_encodeBlock rfl) rfl)).trans
      (.one (by simp) (statesOf_writeEeprom_build_second rfl) rfl)

/-- The write frame is the record over the response of the read just made (R293, R294). -/
theorem loaded_writeEepromWriting {response : List Byte} (hu : Exchanged (.writeEeprom id record) s u response)
    (hlen : response.length = 66) :
    Loaded .second (encodeRecord s.params.layout s.params.flagBits record response id) 2
      (writeEepromWriting id record u) := by
  have hframe : (encodeRecord s.params.layout s.params.flagBits record response id).length = 66 := by simp [hlen]
  have htx : (encodeBlock id record (goto .encodeBlock u)).txbuf =
      memWriteList memZero 0 (encodeRecord s.params.layout s.params.flagBits record response id) := by
    simp [hu.txbuf, hu.config.params, hu.rxBlock_eq hlen]
  have hload := loaded_callExchange (t := .second) (m := 2)
    (s := goto (.build .second) (encodeBlock id record (goto .encodeBlock u)))
    (command := encodeRecord s.params.layout s.params.flagBits record response id)
    (by rw [goto_txbuf, htx]; exact memReadList_memWriteList memZero_wf (by simp [hframe, bufLen]))
    (by simp [hframe, bufLen]) (by decide)
  rwa [hframe] at hload

theorem underway_writeEepromWriting {i : Instr} (hu : Underway i s u) (id : Int) (record : EepromRecord) :
    Underway i s (writeEepromWriting id record u) :=
  hu.congr ⟨rfl, rfl, rfl, rfl⟩ rfl rfl

/-- A write exchange whose response passes W_RESP ends the operation with Ok (R293). -/
theorem writeEeprom_endsWith_of_written (hs : s.Ready) {n : Nat} {response : List Byte} (hn : n ≤ 255)
    (hrun : Runs (statesOf (.writeEeprom id record)) n (accept (requestOf (.writeEeprom id record)) s) u)
    (hseq : u.seq = .check .second) (hu : Exchanged (.writeEeprom id record) s u response)
    (hcheck : blockWriteResponse id u = .ok ()) :
    ∃ t, exec (.writeEeprom id record) s = .next t ∧
      EndsWith (.writeEeprom id record) s t { ret := .ok } response u.env := by
  have hpass : statesOf (.writeEeprom id record) u = .next (completePlain u) := by
    rw [statesOf_writeEeprom_check_second hseq, hcheck, checked_ok]
  have hall := hrun.trans (.one (by simp [hseq]) hpass rfl)
  exact ⟨_, exec_eq_of_runs hs hall (by omega) rfl, hu.endsWith_completePlain⟩

/-- A read and then a write that the transport answers well (R294). -/
theorem writeEeprom_endsWith_of_both_answered (hs : s.Ready) (hid : idInRange id = true)
    (hrec : recordOk .write record = true) {o1 o2 : Offer} {e : Env} (ho1 : o1.drains) (ho2 : o2.drains)
    (hlen : o1.response.length = 66) (hcheck : blockCheck id o1.response = .ok ())
    (hecho : o2.response = [0x40#8 ||| BitVec.ofInt 8 id, 0x00#8])
    (he : s.env = o1.before s.cfgDrain 2 (o2.before s.cfgDrain 66 e)) :
    ∃ t, exec (.writeEeprom id record) s = .next t ∧
      EndsWith (.writeEeprom id record) s t { ret := .ok } o2.response
        ((e.did (o1.actions s.cfgDrain (encodeFrame (.readEeprom (idBits id))) 66)).did (o2.actions s.cfgDrain
          (encodeRecord s.params.layout s.params.flagBits record o1.response id) 2)) := by
  have hframe : (encodeRecord s.params.layout s.params.flagBits record o1.response id).length = 66 := by simp [hlen]
  have hread := (underway_writeEepromReading id hrec s).exchanged_done .first (encodeFrame (.readEeprom (idBits id)))
    (o2.before s.cfgDrain 66 e) hlen.le
  have hwritten := (underway_writeEepromWriting hread.toUnderway id record).exchanged_done .second
    (encodeRecord s.params.layout s.params.flagBits record o1.response id) (o := o2)
    (e.did (o1.actions s.cfgDrain (encodeFrame (.readEeprom (idBits id))) 66)) (by simp [hecho, bufLen])
  have hrunRead := (loaded_writeEepromReading id record hs).runs_done (writeEeprom_exchange_first id record) ho1 hlen he
  have hrunWrite := (loaded_writeEepromWriting hread hlen).runs_done (writeEeprom_exchange_second id record) ho2
    (by simp [hecho]) (by rw [hframe, ← before_did]; rfl)
  have hwriting := runs_writeEepromWriting (record := record) rfl ((hread.blockResponse_eq rfl id).trans hcheck)
  have hrun := (((runs_writeEepromReading hid hrec s).trans hrunRead).trans hwriting).trans hrunWrite
  rw [hecho] at hwritten ⊢
  exact writeEeprom_endsWith_of_written hs (by decide) hrun rfl hwritten (hwritten.blockWriteResponse_ok rfl)

end

/-- Settles O22: a refused record ends in W_VALIDATE (`exec_writeEeprom_of_record_refused`), a failed read or block
check ends before W_ENCODE (`writeEeprom_endsWith_of_read_failed`), and otherwise the write exchange carries the record
over the block read (`writeEeprom_endsWith_of_both_answered`). -/
theorem writeEepromIsReadModifyWrite : Obligations.WriteEepromIsReadModifyWrite := by
  intro id record s hid hs
  refine ⟨fun hrec => ?refused, fun hrec => ⟨fun o1 o2 e ho1 ho2 hlen hcheck hecho he => ?written,
    fun o e c ho hlen hcheck he => ?checkFailed, fun w ws hw hlt => ?shortWrite, fun o e ho hlt he => ?shortRead⟩⟩
  case refused =>
    exact ⟨_, exec_writeEeprom_of_record_refused hs hid hrec,
      rfl, rfl, rfl, rfl, rfl, rfl, ⟨rfl, rfl, rfl, rfl⟩, rfl⟩
  case written =>
    exact writeEeprom_endsWith_of_both_answered hs hid hrec ho1 ho2 hlen hcheck hecho he
  -- the three ways a read does not come to W_ENCODE
  all_goals
    have hload := loaded_writeEepromReading id record hs
    have hunder := underway_writeEepromReading id hrec s
  case checkFailed =>
    have hrun := hload.runs_done (writeEeprom_exchange_first id record) ho hlen he
    have hread := hunder.exchanged_done .first (encodeFrame (.readEeprom (idBits id))) e hlen.le
    exact writeEeprom_endsWith_of_read_failed hs hid hrec (by decide) hrun rfl hread
      ((hread.blockResponse_eq rfl id).trans hcheck)
  case shortWrite =>
    have hrun := hload.runs_shortWrite (writeEeprom_exchange_first id record) hw hlt
    exact writeEeprom_endsWith_of_read_failed hs hid hrec (by decide) hrun rfl (hunder.exchanged_shortWrite _ _ w ws)
      (blockResponse_of_failed (c := .writeError) rfl (by decide) id)
  case shortRead =>
    have hrun := hload.runs_shortRead (writeEeprom_exchange_first id record) ho hlt he
    exact writeEeprom_endsWith_of_read_failed hs hid hrec (by decide) hrun rfl (hunder.exchanged_shortRead _ _ o e)
      (blockResponse_of_failed (c := .readError) rfl (by decide) id)

end Sys2Proof
end

section
/-!
SUPPORT. The frame decoder against the encoder, both ways (R92 to R99, R107, R109), and the operation a frame stands
for (notes/assumptions/3.md).
-/

namespace Sys2Proof

open Machine

/-! ## The parts of a byte -/

/-- A command byte is its kind bits over its low bits (R90). -/
theorem commandByte_split (b : Byte) : b.extractLsb' 5 3 ++ b.extractLsb' 0 5 = b :=
  (BitVec.extractLsb'_append_extractLsb'_eq_extractLsb' rfl).trans BitVec.extractLsb'_eq_self

theorem getLsbD_seven_zeroBit (x : BitVec 7) : (0#1 ++ x).getLsbD 7 = false := by
  rw [BitVec.getLsbD_append]
  rfl

theorem extractLsb'_zeroBit (x : BitVec 7) : (0#1 ++ x).extractLsb' 0 7 = x := BitVec.extractLsb'_append_eq_right

/-- A byte whose bit 7 is clear is its seven low bits under a zero. -/
theorem zeroBit_append_of_seven {b : Byte} (h : b.getLsbD 7 = false) : 0#1 ++ b.extractLsb' 0 7 = b := by
  refine BitVec.eq_of_getLsbD_eq fun k hk => ?_
  rw [BitVec.getLsbD_append]
  by_cases h7 : k < 7
  · simp [h7]
  · obtain rfl : k = 7 := by omega
    rw [h]
    rfl

/-- A position is its two sevens (R92, R103). -/
theorem position_split (pos : BitVec 14) : pos.extractLsb' 7 7 ++ pos.extractLsb' 0 7 = pos :=
  (BitVec.extractLsb'_append_extractLsb'_eq_extractLsb' rfl).trans BitVec.extractLsb'_eq_self

/-! ## Decoding what was encoded -/

/-- The decoder on a command byte given by its parts: the kind chooses the format (R107). -/
theorem decodeFrame_commandByte (kind : BitVec 3) (id : BitVec 5) (rest : List Byte) :
    decodeFrame ((kind ++ id) :: rest) =
      if kind = 0b100 then decodePosition id rest
      else if kind = 0b101 then decodeRead id rest
      else if kind = 0b110 then decodeWrite id rest
      else if kind = 0b111 then decodeId id rest
      else .error .reservedByte0 := by
  have hkind : (kind ++ id).extractLsb' 5 3 = kind := BitVec.extractLsb'_append_eq_left
  have hid : (kind ++ id).extractLsb' 0 5 = id := BitVec.extractLsb'_append_eq_right
  simp only [decodeFrame, hkind, hid]

theorem decodePosition_encoded (id : BitVec 5) (pos : BitVec 14) (rest : List Byte) :
    decodePosition id ((0#1 ++ pos.extractLsb' 7 7) :: (0#1 ++ pos.extractLsb' 0 7) :: rest) =
      .ok (.position id pos, rest) := by
  simp only [decodePosition, getLsbD_seven_zeroBit, Bool.or_false, Bool.false_eq_true, if_false, extractLsb'_zeroBit,
    position_split]

/-- Settles O4: the command byte chooses the format (`decodeFrame_commandByte`), whose decoder reads back every bit of
the format's fields. -/
theorem decodeInvertsEncodeOfFrames : Obligations.DecodeInvertsEncodeOfFrames := by
  intro f rest hf
  cases f with
  | position id pos => exact (decodeFrame_commandByte _ _ _).trans (decodePosition_encoded id pos rest)
  | readParam id sc =>
    refine (decodeFrame_commandByte _ _ _).trans ?_
    simp [decodeRead, of_decide_eq_true hf]
  | writeParam id sc value =>
    refine (decodeFrame_commandByte _ _ _).trans ?_
    show decodeWrite id (sc :: (0#1 ++ value) :: rest) = _
    simp only [decodeWrite, of_decide_eq_true hf, if_false, getLsbD_seven_zeroBit, Bool.false_eq_true,
      extractLsb'_zeroBit]
  | readEeprom id => exact decodeFrame_commandByte _ _ _
  | writeEeprom id payload =>
    have hlen : payload.length = 64 := of_decide_eq_true hf
    refine (decodeFrame_commandByte _ _ _).trans ?_
    simp [decodeWrite, hlen]
  | readId => exact decodeFrame_commandByte 0b111 31 _
  | writeId id => exact decodeFrame_commandByte _ _ _

/-! ## What decodes was encoded -/

section

variable {id : BitVec 5} {bytes rest : List Byte} {f : Frame}

theorem decodePosition_eq_ok (h : decodePosition id bytes = .ok (f, rest)) :
    f.wellFormed = true ∧ (0b100#3 ++ id) :: bytes = encodeFrame f ++ rest := by
  unfold decodePosition at h
  split at h
  · split at h
    · cases h
    · rename_i hbits
      simp only [Bool.or_eq_true, not_or, Bool.not_eq_true] at hbits
      cases h
      refine ⟨rfl, ?_⟩
      rw [encodeFrame, BitVec.extractLsb'_append_eq_left, BitVec.extractLsb'_append_eq_right,
        zeroBit_append_of_seven hbits.1, zeroBit_append_of_seven hbits.2]
      rfl
  · cases h

theorem decodeRead_eq_ok (h : decodeRead id bytes = .ok (f, rest)) :
    f.wellFormed = true ∧ (0b101#3 ++ id) :: bytes = encodeFrame f ++ rest := by
  unfold decodeRead at h
  split at h
  · split at h <;> cases h <;> simp_all [Frame.wellFormed, encodeFrame]
  · cases h

theorem decodeWrite_eq_ok (h : decodeWrite id bytes = .ok (f, rest)) :
    f.wellFormed = true ∧ (0b110#3 ++ id) :: bytes = encodeFrame f ++ rest := by
  unfold decodeWrite at h
  split at h
  · rename_i sc after
    by_cases hsc : sc = 0x00#8
    · rw [if_pos hsc] at h
      split at h
      · cases h
      · cases h
        simp only [Frame.wellFormed, encodeFrame, List.length_take, hsc, List.cons_append, List.take_append_drop,
          decide_eq_true_eq, and_true]
        omega
    · rw [if_neg hsc] at h
      split at h
      · rename_i b2 after
        split at h
        · cases h
        · rename_i hbit
          cases h
          simp [Frame.wellFormed, encodeFrame, hsc, zeroBit_append_of_seven (Bool.not_eq_true _ ▸ hbit)]
      · cases h
  · cases h

theorem decodeId_eq_ok (h : decodeId id bytes = .ok (f, rest)) :
    f.wellFormed = true ∧ (0b111#3 ++ id) :: bytes = encodeFrame f ++ rest := by
  unfold decodeId at h
  split at h
  · split at h
    · rename_i hread
      obtain ⟨rfl, rfl, rfl, rfl⟩ := hread
      cases h
      exact ⟨rfl, rfl⟩
    · split at h
      · rename_i hwrite
        obtain ⟨rfl, rfl, rfl⟩ := hwrite
        cases h
        exact ⟨rfl, rfl⟩
      · cases h
  · cases h

/-- What the frame decoder reads is the encoding of the well-formed frame it answers (R107, R109). -/
theorem decodeFrame_eq_ok (h : decodeFrame bytes = .ok (f, rest)) :
    f.wellFormed = true ∧ bytes = encodeFrame f ++ rest := by
  cases bytes with
  | nil => cases h
  | cons b after =>
    rw [← commandByte_split b, decodeFrame_commandByte] at h
    rw [← commandByte_split b]
    generalize b.extractLsb' 5 3 = kind at h ⊢
    split at h
    · subst kind; exact decodePosition_eq_ok h
    · split at h
      · subst kind; exact decodeRead_eq_ok h
      · split at h
        · subst kind; exact decodeWrite_eq_ok h
        · split at h
          · subst kind; exact decodeId_eq_ok h
          · cases h

end

/-! ## Sub-codes -/

theorem subcode_of_kindOfSubcode {c : Subcodes} {sc : Byte} {kind : ParamKind} (h : kindOfSubcode c sc = some kind) :
    sc = subcode c kind := by
  unfold kindOfSubcode at h
  split_ifs at h <;> cases h <;> assumption

/-- A sub-code that is neither 0x00 nor a P_SUBCODE value is no kind's (R109). -/
theorem kindOfSubcode_eq_none {c : Subcodes} {sc : Byte} (h0 : sc ≠ 0x00#8)
    (h : ¬ ∃ kind, kind ≠ .eeprom ∧ sc = subcode c kind) : kindOfSubcode c sc = none := by
  cases hk : kindOfSubcode c sc with
  | none => rfl
  | some kind =>
    have hsc := subcode_of_kindOfSubcode hk
    by_cases hkind : kind = .eeprom
    · subst hkind; exact absurd hsc h0
    · exact absurd ⟨kind, hkind, hsc⟩ h

/-- Distinct sub-codes select their own kinds (R105). -/
theorem kindOfSubcode_subcode {c : Subcodes} (hc : c.ok = true) (kind : ParamKind) :
    kindOfSubcode c (subcode c kind) = some kind := by
  simp only [Subcodes.ok, decide_eq_true_eq, List.nodup_cons, List.mem_cons, List.not_mem_nil, or_false, not_or] at hc
  cases kind <;> simp only [kindOfSubcode, subcode] <;> grind

theorem subcode_ne_zero {c : Subcodes} (hc : c.ok = true) {kind : ParamKind} (hk : kind ≠ .eeprom) :
    subcode c kind ≠ 0x00#8 := by
  intro h
  have hkind := kindOfSubcode_subcode hc kind
  rw [h] at hkind
  exact hk (Option.some.inj hkind).symm

theorem exists_kind_of_readInstr {c : Subcodes} {sc : Byte} {id : Int} {i : Instr}
    (h : (kindOfSubcode c sc).bind (readInstr id) = some i) : ∃ kind, kind ≠ .eeprom ∧ sc = subcode c kind := by
  obtain ⟨kind, hkind, hi⟩ := Option.bind_eq_some_iff.mp h
  exact ⟨kind, fun hk => (by subst hk; cases hi), subcode_of_kindOfSubcode hkind⟩

theorem exists_kind_of_writeInstr {c : Subcodes} {sc : Byte} {id value : Int} {i : Instr}
    (h : (kindOfSubcode c sc).bind (writeInstr id value) = some i) : ∃ kind, kind ≠ .eeprom ∧ sc = subcode c kind := by
  obtain ⟨kind, hkind, hi⟩ := Option.bind_eq_some_iff.mp h
  exact ⟨kind, fun hk => (by subst hk; cases hi), subcode_of_kindOfSubcode hkind⟩

/-! ## The operation a frame stands for -/

theorem decodeInstr_eq_ok {p : Params} {bytes rest : List Byte} {i : Instr}
    (h : decodeInstr p bytes = .ok (i, rest)) : ∃ f, decodeFrame bytes = .ok (f, rest) ∧ frameInstr p f = .ok i := by
  unfold decodeInstr at h
  split at h
  · split at h <;> cases h
    exact ⟨_, ‹_›, ‹_›⟩
  · cases h

/-- The encoding of a well-formed frame decodes to the operation the frame stands for. -/
theorem decodeInstr_encodeFrame_ok {p : Params} {f : Frame} {i : Instr} (hf : f.wellFormed = true)
    (hi : frameInstr p f = .ok i) (rest : List Byte) : decodeInstr p (encodeFrame f ++ rest) = .ok (i, rest) := by
  simp only [decodeInstr, decodeInvertsEncodeOfFrames f rest hf, hi]

theorem decodeInstr_encodeFrame_error {p : Params} {f : Frame} {e : DecodeError} (hf : f.wellFormed = true)
    (he : frameInstr p f = .error e) (rest : List Byte) : decodeInstr p (encodeFrame f ++ rest) = .error e := by
  simp only [decodeInstr, decodeInvertsEncodeOfFrames f rest hf, he]

theorem exists_kind_of_frameInstr_readParam {p : Params} {id : BitVec 5} {sc : Byte} {i : Instr}
    (h : frameInstr p (.readParam id sc) = .ok i) : ∃ kind, kind ≠ .eeprom ∧ sc = subcode p.subcodes kind := by
  simp only [frameInstr] at h
  split at h
  · exact exists_kind_of_readInstr ‹_›
  · cases h

theorem exists_kind_of_frameInstr_writeParam {p : Params} {id : BitVec 5} {sc : Byte} {value : BitVec 7} {i : Instr}
    (h : frameInstr p (.writeParam id sc value) = .ok i) :
    ∃ kind, kind ≠ .eeprom ∧ sc = subcode p.subcodes kind := by
  simp only [frameInstr] at h
  split at h
  · exact exists_kind_of_writeInstr ‹_›
  · cases h

/-- Settles O5: each format's decoder answers only what its encoder wrote (`decodeFrame_eq_ok`), and only a P_SUBCODE
value has a kind (`subcode_of_kindOfSubcode`, `kindOfSubcode_eq_none`). -/
theorem onlyEncodedFramesDecode : Obligations.OnlyEncodedFramesDecode := by
  refine ⟨fun bytes f rest => decodeFrame_eq_ok, fun p => ⟨fun bytes i rest h => ?_, fun id sc rest h0 hno => ?_,
    fun id sc value rest h0 hno => ?_⟩⟩
  · obtain ⟨f, hf, hi⟩ := decodeInstr_eq_ok h
    obtain ⟨hwf, hbytes⟩ := decodeFrame_eq_ok hf
    refine ⟨f, hwf, hbytes, hi, ?_, ?_⟩
    · rintro id sc rfl
      exact exists_kind_of_frameInstr_readParam hi
    · rintro id sc value rfl
      exact exists_kind_of_frameInstr_writeParam hi
  all_goals
    refine decodeInstr_encodeFrame_error ?_ ?_ rest
    · exact decide_eq_true h0
    · simp only [frameInstr, kindOfSubcode_eq_none h0 hno, Option.bind_none]

/-! ## The words of an operation -/

theorem idBits_cast {id : Int} (h : idInRange id = true) : ((idBits id).toNat : Int) = id := by
  rw [idBits_toNat h, Int.toNat_of_nonneg (idInRange_iff.mp h).1]

theorem valueBits_cast {kind : ParamKind} {value : Int} (h : valueInRange kind value = true) :
    ((valueBits value).toNat : Int) = value := by
  have hrange : 0 ≤ value ∧ value ≤ 127 := by
    cases kind <;> simp [valueInRange, paramRange] at h <;> omega
  simp only [valueBits, BitVec.toNat_ofInt]
  omega

theorem kind_of_valueInRange {kind : ParamKind} {value : Int} (h : valueInRange kind value = true) :
    kind ≠ .eeprom := by
  rintro rfl
  cases h

/-- A commanded position is no weak one, and loses nothing in its fourteen bits (R103, R181). -/
theorem posBits_of_posInRange {pos : Int} (h : posInRange pos = true) :
    posBits pos ≠ 0 ∧ ((posBits pos).toNat : Int) = pos := by
  simp only [posInRange, Bool.and_eq_true, decide_eq_true_eq] at h
  have hpos := posBits_toNat (pos := pos) (by omega) (by omega)
  refine ⟨fun hzero => ?_, by omega⟩
  have hzero' : (posBits pos).toNat = 0 := by rw [hzero]; rfl
  omega

/-- What decoding answers for a frame of format R that a kind's request sends (R94, R113). -/
theorem frameInstr_readParam {p : Params} (hc : p.subcodes.ok = true) {id : Int} {kind : ParamKind}
    (hid : idInRange id = true) (hk : kind ≠ .eeprom) :
    frameInstr p (.readParam (idBits id) (subcode p.subcodes kind)) = .ok (canonicalInstr (.readParam id kind)) := by
  cases kind
  case eeprom => exact absurd rfl hk
  all_goals simp only [frameInstr, kindOfSubcode_subcode hc, idBits_cast hid, Option.bind_some, readInstr]; rfl

/-- What decoding answers for a frame of format W that a kind's request sends (R95, R113). -/
theorem frameInstr_writeParam {p : Params} (hc : p.subcodes.ok = true) {id : Int} {kind : ParamKind} {value : Int}
    (hid : idInRange id = true) (hv : valueInRange kind value = true) :
    frameInstr p (.writeParam (idBits id) (subcode p.subcodes kind) (valueBits value)) =
      .ok (canonicalInstr (.writeParam id kind value)) := by
  cases kind
  case eeprom => cases hv
  all_goals
    simp only [frameInstr, kindOfSubcode_subcode hc, idBits_cast hid, valueBits_cast hv, Option.bind_some, writeInstr]
    rfl

/-- The frame of a well-formed operation but WRITE_EEPROM is well-formed and stands for the operation, or for the one
named where several share it (notes/assumptions/3.md). -/
theorem frameInstr_instrFrame {p : Params} (hc : p.subcodes.ok = true) {base : List Byte} {i : Instr} {f : Frame}
    (hw : i.wellFormed = true) (hne : isWriteEeprom i = false) (hf : instrFrame p base i = some f) :
    f.wellFormed = true ∧ frameInstr p f = .ok (canonicalInstr i) := by
  cases i <;> cases hf
  case writeEeprom => cases hne
  case setPos id pos =>
    simp only [Instr.wellFormed, Bool.and_eq_true] at hw
    obtain ⟨hzero, hpos⟩ := posBits_of_posInRange hw.2
    exact ⟨rfl, by simp only [frameInstr, if_neg hzero, hpos, idBits_cast hw.1]; rfl⟩
  case getId => exact ⟨rfl, rfl⟩
  case readParam id kind =>
    simp only [Instr.wellFormed, Bool.and_eq_true, decide_eq_true_eq] at hw
    exact ⟨decide_eq_true (subcode_ne_zero hc hw.2), frameInstr_readParam hc hw.1 hw.2⟩
  case writeParam id kind value =>
    simp only [Instr.wellFormed, Bool.and_eq_true] at hw
    exact ⟨decide_eq_true (subcode_ne_zero hc (kind_of_valueInRange hw.2)), frameInstr_writeParam hc hw.1 hw.2⟩
  case readStretch | readSpeed | readCurrent | readTemperature =>
    exact ⟨decide_eq_true (subcode_ne_zero hc (by decide)), frameInstr_readParam hc hw (by decide)⟩
  case writeStretch | writeSpeed | writeCurrent | writeTemperature =>
    simp only [Instr.wellFormed, Bool.and_eq_true] at hw
    exact ⟨decide_eq_true (subcode_ne_zero hc (by decide)), frameInstr_writeParam hc hw.1 hw.2⟩
  all_goals exact ⟨rfl, by simp only [frameInstr, idBits_cast hw, if_true]; rfl⟩

/-- The decoder reads the field groups alone, which stand behind the header (R122, R234). -/
theorem decodeRecord_congr {l : Layout} (hl : l.ok = true) (b : FlagBits) {frame frame' : List Byte}
    (h : ∀ k, 2 ≤ k → frame.getD k 0x00#8 = frame'.getD k 0x00#8) :
    decodeRecord l b frame = decodeRecord l b frame' := by
  have hgroup : ∀ g, getGroup l frame g = getGroup l frame' g := fun g =>
    getGroup_congr fun k hk _ => h k (by have := (layout_ok_bounds hl g).1; omega)
  simp only [decodeRecord, hgroup]

theorem getD_two_headers (a b a' b' : Byte) (payload : List Byte) {k : Nat} (hk : 2 ≤ k) :
    (a :: b :: payload).getD k 0x00#8 = (a' :: b' :: payload).getD k 0x00#8 := by
  obtain ⟨j, rfl⟩ := Nat.exists_eq_add_of_le' hk
  rfl

/-- The write frame of a request in its domain stands for the write of every field it carries (R97). -/
theorem frameInstr_writeEeprom {p : Params} (hl : p.layout.ok = true) {id : Int} (hid : idInRange id = true)
    (payload : List Byte) :
    frameInstr p (.writeEeprom (idBits id) payload) = .ok (.writeEeprom id
      (decodeRecord p.layout p.flagBits (encodeFrame (.writeEeprom (idBits id) payload)))) := by
  simp only [frameInstr, idBits_cast hid, encodeFrame]
  rw [decodeRecord_congr hl p.flagBits fun k hk => getD_two_headers _ _ _ _ payload hk]

theorem params_ok_iff {p : Params} :
    p.ok = true ↔ p.subcodes.ok = true ∧ p.layout.ok = true ∧ p.flagBits.ok = true := by
  simp [Params.ok, and_assoc]

/-- Settles O6: an operation's frame stands for it (`frameInstr_instrFrame`, `frameInstr_writeEeprom`), and decoding
gives the frame back (O4). -/
theorem operationWordsDecodeToTheOperation : Obligations.OperationWordsDecodeToTheOperation := by
  intro p base i bytes rest hp hbase h
  obtain ⟨hsub, hlayout, -⟩ := params_ok_iff.mp hp
  obtain ⟨hw, f, hf, rfl⟩ := encode_eq_some.mp h
  cases hi : isWriteEeprom i with
  | false =>
    obtain ⟨hwf, hinstr⟩ := frameInstr_instrFrame hsub hw hi hf
    rw [decodeInstr_encodeFrame_ok hwf hinstr]
    cases i
    case writeEeprom => cases hi
    all_goals rfl
  | true =>
    cases i <;> cases hi
    cases hf
    simp only [Instr.wellFormed, Bool.and_eq_true] at hw
    have hlen : ((encodeRecord p.layout p.flagBits ‹_› base ‹_›).drop 2).length = 64 := by simp [hbase]
    exact decodeInstr_encodeFrame_ok (f := .writeEeprom _ _) (decide_eq_true hlen)
      (frameInstr_writeEeprom hlayout hw.1 _) rest

/-- Settles O1: each word is the encoding of its operation's frame, and evaluates to it. -/
theorem frameWordsDecodeAsSpecified : Obligations.FrameWordsDecodeAsSpecified :=
  ⟨rfl, rfl, rfl, rfl, rfl, rfl, rfl⟩

end Sys2Proof
end

section
/-!
SUPPORT. Canonical buffers as the functions they read as (R10, R21, R22).
-/

namespace Sys2Proof

open Machine

/-- The parts of a canonical list's head and tail. -/
theorem memWfFrom_cons {lo k : Nat} {b : Byte} {m : Memory} (h : memWfFrom lo ((k, b) :: m) = true) :
    lo ≤ k ∧ k < bufLen ∧ b ≠ 0x00#8 ∧ memWfFrom (k + 1) m = true := by
  simpa [memWfFrom, and_assoc] using h

theorem memRead_head (k : Nat) (b : Byte) (m : Memory) : memRead ((k, b) :: m) k = b := by simp [memRead]

/-- A canonical list shows a byte at its head that no canonical list starting later shows. -/
theorem memRead_head_ne {lo k : Nat} {b : Byte} {m m' : Memory} (h : memWfFrom lo ((k, b) :: m) = true)
    (h' : memWfFrom (k + 1) m' = true) : memRead ((k, b) :: m) k ≠ memRead m' k := by
  rw [memRead_head, memRead_below h' (Nat.lt_succ_self k)]
  exact (memWfFrom_cons h).2.2.1

theorem memWfFrom_ext {m m' : Memory} {lo : Nat} (h : memWfFrom lo m = true) (h' : memWfFrom lo m' = true)
    (hread : ∀ a, memRead m a = memRead m' a) : m = m' := by
  induction m generalizing m' lo with
  | nil =>
    cases m' with
    | nil => rfl
    | cons c m' => exact absurd (hread c.1).symm (memRead_head_ne h' rfl)
  | cons c m ih =>
    obtain ⟨k, b⟩ := c
    cases m' with
    | nil => exact absurd (hread k) (memRead_head_ne h rfl)
    | cons c' m' =>
      obtain ⟨k', b'⟩ := c'
      obtain ⟨-, hk, hb, hm⟩ := memWfFrom_cons h
      obtain ⟨-, hk', hb', hm'⟩ := memWfFrom_cons h'
      rcases Nat.lt_trichotomy k k' with hlt | rfl | hlt
      · have hlater : memWfFrom (k + 1) ((k', b') :: m') = true := by simpa [memWfFrom, hk', hb', hm'] using hlt
        exact absurd (hread k) (memRead_head_ne h hlater)
      · have hbyte : b = b' := by simpa only [memRead_head] using hread k
        have htail : m = m' := ih hm hm' fun a => by
          rcases eq_or_ne a k with rfl | ha
          · rw [memRead_below hm (Nat.lt_succ_self a), memRead_below hm' (Nat.lt_succ_self a)]
          · simpa only [memRead, if_neg ha] using hread a
        rw [hbyte, htail]
      · have hlater : memWfFrom (k' + 1) ((k, b) :: m) = true := by simpa [memWfFrom, hk, hb, hm] using hlt
        exact absurd (hread k').symm (memRead_head_ne h' hlater)

/-- Settles O7, by induction on the lists: the first address that one lists and the other does not reads differently. -/
theorem canonicalBuffersReadAlikeAreEqual : Obligations.CanonicalBuffersReadAlikeAreEqual :=
  fun _ _ h h' hread => memWfFrom_ext h h' hread

end Sys2Proof
end

section
/-!
SUPPORT. The bytes of the nibble code and of a group in the write frame (R230 to R233, R260 to R268), and the ranges of
the two validation modes (R272).
-/

namespace Sys2Proof

open Machine

/-! ## The nibble code -/

/-- `combine` in arithmetic, for a second byte that is a nibble (R230). -/
theorem combine_of_nibble (a : Byte) {b : Byte} (hb : b.toNat < 16) : combine a b = 16 * a.toNat + b.toNat := by
  rw [combine, ← Nat.shiftLeft_add_eq_or_of_lt (i := 4) hb, Nat.shiftLeft_eq]
  omega

theorem combine_lt (a b : Byte) : combine a b < 4096 := by
  have ha : a.toNat <<< 4 < 2 ^ 12 := by rw [Nat.shiftLeft_eq]; have := a.isLt; omega
  exact Nat.or_lt_two_pow ha (b.isLt.trans (by decide))

/-- The halves of a value of at most three nibbles (R231). -/
theorem split_fst_toNat {v : Nat} (h : v < 4096) : (split v).1.toNat = v / 16 := by
  simp only [split, BitVec.toNat_ofNat, Nat.shiftRight_eq_div_pow]
  omega

theorem split_snd_toNat (v : Nat) : (split v).2.toNat = v % 16 := by
  have hlow : v &&& 0x0F = v % 16 := Nat.and_two_pow_sub_one_eq_mod v 4
  simp only [split, BitVec.toNat_ofNat, hlow]
  omega

/-- Settles O33: the halves are quotient and remainder by 16, and `combine` puts them back. -/
theorem splitThenCombineIsIdentity : Obligations.SplitThenCombineIsIdentity := by
  refine ⟨fun v hv => ⟨combine_split (by omega), ?_, ?_⟩, fun a b => ⟨combine_lt a b, combine_of_nibble a⟩⟩
  · rw [split_fst_toNat (by omega)]
    omega
  · rw [split_snd_toNat]
    omega

/-! ## A group's bytes -/

theorem getD_put8_fst {frame : List Byte} {off v : Nat} (hoff : off + 2 ≤ frame.length) :
    (put8 frame off v).getD off 0x00#8 = (split v).1 := by
  rw [put8, getD_set, if_neg (by omega), getD_set, if_pos ⟨rfl, by omega⟩]

theorem getD_put8_snd {frame : List Byte} {off v : Nat} (hoff : off + 2 ≤ frame.length) :
    (put8 frame off v).getD (off + 1) 0x00#8 = (split v).2 := by
  rw [put8, getD_set, if_pos ⟨rfl, by rw [List.length_set]; omega⟩]

theorem getD_put8_outside {frame : List Byte} {off v k : Nat} (hk : k < off ∨ off + 2 ≤ k) :
    (put8 frame off v).getD k 0x00#8 = frame.getD k 0x00#8 := by
  rw [put8, getD_set, if_neg (by omega), getD_set, if_neg (by omega)]

/-- A frame holds a logical byte at an offset: its high nibble in one byte, its low nibble in the next (R231, R233). -/
def HoldsByte (frame : List Byte) (off v : Nat) : Prop :=
  (frame.getD off 0x00#8).toNat = v / 16 ∧ (frame.getD (off + 1) 0x00#8).toNat = v % 16

theorem holdsByte_put8 {frame : List Byte} {off v : Nat} (hoff : off + 2 ≤ frame.length) (hv : v < 4096) :
    HoldsByte (put8 frame off v) off v :=
  ⟨by rw [getD_put8_fst hoff, split_fst_toNat hv], by rw [getD_put8_snd hoff, split_snd_toNat]⟩

theorem HoldsByte.congr {frame frame' : List Byte} {off v : Nat} (h : HoldsByte frame off v)
    (heq : ∀ k, off ≤ k → k < off + 2 → frame'.getD k 0x00#8 = frame.getD k 0x00#8) : HoldsByte frame' off v := by
  unfold HoldsByte
  rwa [heq off (by omega) (by omega), heq (off + 1) (by omega) (by omega)]

theorem holdsByte_put16_high {frame : List Byte} {off v : Nat} (hoff : off + 4 ≤ frame.length) (hv : v < 65536) :
    HoldsByte (put16 frame off v) off (v / 256) := by
  have hhigh : v >>> 8 = v / 256 := Nat.shiftRight_eq_div_pow v 8
  unfold put16
  rw [hhigh]
  exact (holdsByte_put8 (by omega) (by omega)).congr fun k _ hk => getD_put8_outside (by omega)

theorem holdsByte_put16_low {frame : List Byte} {off v : Nat} (hoff : off + 4 ≤ frame.length) :
    HoldsByte (put16 frame off v) (off + 2) (v % 256) := by
  have hlow : v &&& 0xFF = v % 256 := Nat.and_two_pow_sub_one_eq_mod v 8
  unfold put16
  rw [hlow]
  exact holdsByte_put8 (by rw [put8_length]; omega) (by omega)

section

variable {l : Layout} {b : FlagBits} {r : EepromRecord} {base : List Byte} {g : Group} {v : Nat}

/-- The bytes of a group the record asks for are those of its own turn: no later turn touches them (R122, R260). -/
theorem exists_putGroup_of_groupValue (hl : l.ok = true) (hbase : base.length = 66)
    (hv : groupValue l b r base g = some v) (id : Int) :
    ∃ frame : List Byte, frame.length = 66 ∧ ∀ k, l.off g ≤ k → k < l.off g + g.size →
      (encodeRecord l b r base id).getD k 0x00#8 = (putGroup l frame g v).getD k 0x00#8 := by
  obtain ⟨before, after, hall, -, hafter⟩ := group_all_split g
  refine ⟨before.foldl (encodeGroup l b r base) (writeHeader base id),
    by rw [foldl_encodeGroup_length, writeHeader_length, hbase], fun k h1 h2 => ?_⟩
  have hturn : encodeGroup l b r base (before.foldl (encodeGroup l b r base) (writeHeader base id)) g =
      putGroup l (before.foldl (encodeGroup l b r base) (writeHeader base id)) g v := by simp only [encodeGroup, hv]
  rw [encodeRecord, hall, List.foldl_append, List.foldl_cons, hturn]
  refine getD_foldl_encodeGroup after _ fun g' hg' _ hin => ?_
  have hne : g ≠ g' := fun he => hafter (he ▸ hg')
  rcases layout_ok_apart hl hne with h | h <;> omega

/-- A two-byte group in the write frame holds the value the record asks for (R233). -/
theorem holdsByte_encodeRecord (hl : l.ok = true) (hbase : base.length = 66) (hsize : g.size = 2)
    (hv : groupValue l b r base g = some v) (hlt : v < 4096) (id : Int) :
    HoldsByte (encodeRecord l b r base id) (l.off g) v := by
  obtain ⟨frame, hlen, hbytes⟩ := exists_putGroup_of_groupValue hl hbase hv id
  have hput : putGroup l frame g v = put8 frame (l.off g) v := by cases g <;> cases hsize <;> rfl
  have hbounds := layout_ok_bounds hl g
  rw [hsize] at hbytes hbounds
  rw [hput] at hbytes
  exact (holdsByte_put8 (by omega) hlt).congr hbytes

/-- A position limit in the write frame: its high byte's pair, and then its low byte's (R64, R233, D7). -/
theorem holdsByte_encodeRecord_limit (hl : l.ok = true) (hbase : base.length = 66) (hsize : g.size = 4)
    (hv : groupValue l b r base g = some v) (hlt : v < 65536) (id : Int) :
    HoldsByte (encodeRecord l b r base id) (l.off g) (v / 256) ∧
      HoldsByte (encodeRecord l b r base id) (l.off g + 2) (v % 256) := by
  obtain ⟨frame, hlen, hbytes⟩ := exists_putGroup_of_groupValue hl hbase hv id
  have hput : putGroup l frame g v = put16 frame (l.off g) v := by cases g <;> cases hsize <;> rfl
  have hbounds := layout_ok_bounds hl g
  rw [hsize] at hbytes hbounds
  rw [hput] at hbytes
  exact ⟨(holdsByte_put16_high (by omega) hlt).congr fun k h1 h2 => hbytes k (by omega) (by omega),
    (holdsByte_put16_low (by omega)).congr fun k h1 h2 => hbytes k (by omega) (by omega)⟩

/-- The header of the write frame is forced (R260, D34); every group stands behind it (R122). -/
theorem getD_encodeRecord_header (hl : l.ok = true) (id : Int) {k : Nat} (hk : k < 4) :
    (encodeRecord l b r base id).getD k 0x00#8 = (writeHeader base id).getD k 0x00#8 :=
  getD_foldl_encodeGroup Group.all _ fun g _ _ => by have := (layout_ok_bounds hl g).1; omega

end

/-- Settles O31: the header is forced (`getD_encodeRecord_header`), and a byte outside every requested group is passed
over by every turn of the loop (`getD_foldl_encodeGroup`). -/
theorem encoderTouchesOnlyRequestedGroups : Obligations.EncoderTouchesOnlyRequestedGroups := by
  intro l b r base id hl hbase out
  refine ⟨by simp [out, hbase], ?_, ?_, fun k hk hout => ?_⟩
  · rw [getD_encodeRecord_header hl id (by decide)]
    simp [writeHeader, hbase]
  · rw [getD_encodeRecord_header hl id (by decide)]
    simp [writeHeader, hbase]
  · have h0 : ¬ 0 = k := by omega
    have h1 : ¬ 1 = k := by omega
    rw [show out = Group.all.foldl (encodeGroup l b r base) (writeHeader base id) from rfl,
      getD_foldl_encodeGroup Group.all _ fun g _ => hout g]
    simp [writeHeader, h0, h1]

/-! ## Field by field -/

/-- A number's field in a record that passes WRITE validation is in its range (R270). -/
theorem numInRange_of_recordOk {r : EepromRecord} (hr : recordOk .write r = true) {f : Field} {v : Int}
    (hv : r.get f = some (.num v)) : numInRange .write f v = true := valueOk_of_recordOk hr hv

section

variable {l : Layout} {b : FlagBits} {r : EepromRecord} {base : List Byte}

/-- A field of a two-byte group holds the code of its value, whatever its spelling n (R261 to R264, R266). -/
theorem holdsByte_field (hl : l.ok = true) (hbase : base.length = 66) (hr : recordOk .write r = true) (id : Int)
    (f : Field) (hf : f.flagBit b = none) (hsize : f.group.size = 2) {v : Int} (hv : r.get f = some (.num v)) {n : Nat}
    (hn : numInRange .write f v = true → f.encode v = some n) :
    HoldsByte (encodeRecord l b r base id) (l.off f.group) n := by
  have hrange := numInRange_of_recordOk hr hv
  obtain ⟨c, hc, hlt, -⟩ := encode_decodes hf hrange
  obtain rfl : n = c := Option.some.inj ((hn hrange).symm.trans hc)
  obtain ⟨o, hget, hgroup⟩ := exists_number hf l r base
  obtain rfl : o = some v := by
    rw [hv] at hget
    cases o <;> simp_all
  have hbound : groupBound f.group = 4096 := by cases f <;> cases hsize <;> rfl
  exact holdsByte_encodeRecord hl hbase hsize (hgroup.trans hc) (hbound ▸ hlt) id

/-- A position limit in its range holds its value (R64, R266, D7). -/
theorem holdsByte_limit (hl : l.ok = true) (hbase : base.length = 66) (hr : recordOk .write r = true) (id : Int)
    (f : Field) (hf : f.flagBit b = none) (hsize : f.group.size = 4) {v : Int} (hv : r.get f = some (.num v)) :
    HoldsByte (encodeRecord l b r base id) (l.off f.group) (v.toNat / 256) ∧
      HoldsByte (encodeRecord l b r base id) (l.off f.group + 2) (v.toNat % 256) := by
  obtain ⟨c, hc, hlt, -⟩ := encode_decodes hf (numInRange_of_recordOk hr hv)
  have hcode : f.encode v = some v.toNat := by cases f <;> cases hsize <;> rfl
  obtain rfl : v.toNat = c := Option.some.inj (hcode.symm.trans hc)
  obtain ⟨o, hget, hgroup⟩ := exists_number hf l r base
  obtain rfl : o = some v := by
    rw [hv] at hget
    cases o <;> simp_all
  have hbound : groupBound f.group = 65536 := by cases f <;> cases hsize <;> rfl
  exact holdsByte_encodeRecord_limit hl hbase hsize (hgroup.trans hc) (hbound ▸ hlt) id

end

theorem encodeDoubled_eq {v : Int} (h : 0 ≤ v) : encodeDoubled v = 2 * v.toNat := by
  unfold encodeDoubled
  omega

/-- The offset's code is the byte of its negative (R263). -/
theorem encodeOffset_eq (v : Int) : encodeOffset v = (BitVec.ofInt 8 (-v)).toNat := by
  unfold encodeOffset
  rw [BitVec.toNat_ofInt, Int.zero_sub]
  rfl

theorem encodeCommspeed_of_range {v : Int} (h : numInRange .write .commspeed v = true) :
    encodeCommspeed v = some (if v = 1250000 then 0x00 else if v = 625000 then 0x01 else 0x0A) := by
  simp only [numInRange, Bool.or_eq_true, decide_eq_true_eq] at h
  rcases h with (rfl | rfl) | rfl <;> rfl

/-- A stretch in its range is doubled without loss (R262). -/
theorem encode_stretch_of_range {f : Field}
    (hf : f = .stretch ∨ f = .charstretch1 ∨ f = .charstretch2 ∨ f = .charstretch3)
    {v : Int} (h : numInRange .write f v = true) : f.encode v = some (2 * v.toNat) := by
  have hv : 0 ≤ v := by
    rcases hf with rfl | rfl | rfl | rfl <;> simp [numInRange] at h <;> omega
  rcases hf with rfl | rfl | rfl | rfl <;> exact congrArg some (encodeDoubled_eq hv)

/-- The flags group of a record that requests a writable flag (R265, D10). -/
theorem exists_flags_encodeRecord {l : Layout} {b : FlagBits} {r : EepromRecord} {base : List Byte} (hl : l.ok = true)
    (hb : b.ok = true) (hbase : base.length = 66) (id : Int)
    (hreq : (r.slave.isSome || r.rotation.isSome || r.pwminhibit.isSome || r.reverse.isSome) = true) :
    ∃ fl, fl < 256 ∧ HoldsByte (encodeRecord l b r base id) l.flags fl ∧ ∀ k, k < 8 →
      fl.testBit k = (requestedBit b r k).getD ((getGroup l base .flags).testBit k) := by
  obtain ⟨fl, hfl⟩ : ∃ fl, encodeFlags b r (getGroup l base .flags) = some fl := ⟨_, if_pos hreq⟩
  have hlt := encodeFlags_lt hfl
  refine ⟨fl, hlt, holdsByte_encodeRecord (g := .flags) hl hbase rfl hfl (by omega) id, fun k hk => ?_⟩
  rw [← testBit_encodeFlags hb r _ hk, hfl, Option.getD_some]

/-- Settles O53: a requested field's group holds the code of its value (`holdsByte_field`, `holdsByte_limit`), and the
flags group the requested bits over the baseline's (`exists_flags_encodeRecord`). -/
theorem encoderWritesEachFieldInItsGroup : Obligations.EncoderWritesEachFieldInItsGroup := by
  intro l b r base id hl hb hbase hr out holds baseFlags
  have hget : ∀ {o : Option Int} {v : Int}, o = some v → o.map FieldValue.num = some (.num v) := by
    rintro _ v rfl; rfl
  have hfield := @holdsByte_field l b r base hl hbase hr id
  have hlimit := @holdsByte_limit l b r base hl hbase hr id
  refine ⟨fun v hv => ?_, fun v hv => ?_, fun v hv => ?_, fun v hv => ?_, fun v hv => ?_, fun v hv => ?_,
    fun v hv => ?_,
    fun v hv => ?_, fun v hv => ?_, fun v hv => ?_, fun v hv => ?_, fun v hv => ?_, fun v hv => ?_,
    fun v hv => ?_,
    fun v hv => ?_, fun v hv => ?_, fun v hv => ?_, exists_flags_encodeRecord hl hb hbase id⟩
  · exact hfield .stretch rfl rfl (hget hv) (encode_stretch_of_range (by simp))
  · exact hfield .speed rfl rfl (hget hv) fun _ => rfl
  · exact hfield .punch rfl rfl (hget hv) fun _ => rfl
  · exact hfield .deadband rfl rfl (hget hv) fun _ => rfl
  · exact hfield .dumping rfl rfl (hget hv) fun _ => rfl
  · exact hfield .safetimer rfl rfl (hget hv) fun _ => rfl
  · exact hlimit .poslimithigh rfl rfl (hget hv)
  · exact hlimit .poslimitlow rfl rfl (hget hv)
  · exact hfield .commspeed rfl rfl (hget hv) encodeCommspeed_of_range
  · exact hfield .temperaturelimit rfl rfl (hget hv) fun _ => rfl
  · exact hfield .currentlimit rfl rfl (hget hv) fun _ => rfl
  · exact hfield .response rfl rfl (hget hv) fun _ => rfl
  · exact hfield .offset rfl rfl (hget hv) fun _ => congrArg some (encodeOffset_eq v)
  · exact hfield .id rfl rfl (hget hv) fun _ => rfl
  · exact hfield .charstretch1 rfl rfl (hget hv) (encode_stretch_of_range (by simp))
  · exact hfield .charstretch2 rfl rfl (hget hv) (encode_stretch_of_range (by simp))
  · exact hfield .charstretch3 rfl rfl (hget hv) (encode_stretch_of_range (by simp))

/-- Settles O54: every field but the offset is its group's reading as the decoder defines it; the offset's is
`decodeOffset_eq`. -/
theorem decoderReadsEachFieldFromItsGroup : Obligations.DecoderReadsEachFieldFromItsGroup := by
  intro l b frame pair quad r
  exact ⟨rfl, rfl, rfl, rfl, rfl, rfl, rfl, rfl, rfl, rfl, rfl, rfl, rfl, rfl, rfl, rfl, rfl, rfl, rfl, rfl, rfl,
    congrArg some (decodeOffset_eq _)⟩

/-! ## The validation modes -/

theorem numInRange_read_eq_write {f : Field} (hhigh : f ≠ .poslimithigh) (hlow : f ≠ .poslimitlow) (v : Int) :
    numInRange .read f v = numInRange .write f v := by
  cases f
  case poslimithigh => exact absurd rfl hhigh
  case poslimitlow => exact absurd rfl hlow
  all_goals rfl

/-- Settles O37: outside the position limits the ranges are one (`numInRange_read_eq_write`); a limit's are those of
R272. -/
theorem modesDifferOnPositionLimitsOnly : Obligations.ModesDifferOnPositionLimitsOnly := by
  refine fun r f => ⟨fun hhigh hlow => ?_, fun v hf hv => ?_⟩
  · unfold fieldInvalid
    rcases r.get f with _ | v | _
    · rfl
    · simp only [valueOk, numInRange_read_eq_write hhigh hlow]
    · rfl
  · rcases hf with rfl | rfl <;> simp [fieldInvalid, hv, valueOk, numInRange]

end Sys2Proof
end

section
/-!
SUPPORT. What one sequencer state of an operation can do when it moves on, said once for every operation (R28, R150,
R151, R181 to R183, R202, R203, R290 to R293, R320 to R322).
-/

namespace Sys2Proof

open Machine

/-- Everything a state of the bus operation i can do when it moves on from s, with what its guards have found. -/
inductive BusMove (i : Instr) (s : State) : State → Prop
  /-- The operand checks of a bus operation find one outside its domain (R342). -/
  | refuse (hw : i.wellFormed = false) (hseq : s.seq = .admission) : BusMove i s (raiseFail .invalidOption s)
  | enter (hprobe : isProbe i = false) (hwrite : isWriteEeprom i = false)
      (hw : i.wellFormed = true) (hseq : s.seq = .admission) : BusMove i s (goto (.build .first) s)
  | enterProbe (hprobe : isProbe i = true) (hw : i.wellFormed = true) (hseq : s.seq = .admission) :
      BusMove i s (goto .probeLoop { s with latch := { s.latch with alive := true, aliveI := 0 } })
  | enterRecord {id : Int} {record : EepromRecord} (hi : i = .writeEeprom id record) (hid : idInRange id = true)
      (hseq : s.seq = .admission) : BusMove i s (goto .validateRecord s)
  | refuseRecord {id : Int} {record : EepromRecord} (hi : i = .writeEeprom id record)
      (hrec : recordOk .write record = false) (hseq : s.seq = .validateRecord) :
      BusMove i s (raiseFail .eepromDataWrong (validate .write record s))
  | acceptRecord {id : Int} {record : EepromRecord} (hi : i = .writeEeprom id record)
      (hrec : recordOk .write record = true) (hseq : s.seq = .validateRecord) :
      BusMove i s (goto (.build .first) (validate .write record s))
  /-- The command frame of the first exchange into TXBUF. -/
  | send {f : Frame} {m : Nat} (hcommand : commandBytes s i .first = some (encodeFrame f))
      (hlengths : exLengths (requestOf i).op .first = ((encodeFrame f).length, m)) (hseq : s.seq = .build .first) :
      BusMove i s (sendFrame .first f m s)
  | sendSample {id : Int} (hi : i = .setPosWeakKeep id) (hseq : s.seq = .build .second) :
      BusMove i s (sendFrame .second (.position (idBits id) (posBits s.latch.keepPos.toNat)) 3 s)
  | callWrite {id : Int} {record : EepromRecord} (hi : i = .writeEeprom id record) (hseq : s.seq = .build .second) :
      BusMove i s (callExchange .second 66 2 s)
  | exchange {t : Turn} {m : ExState} {s' : State} (hseq : s.seq = .exchange t m)
      (hstep : exchangeStep t m s = .next s') : BusMove i s s'
  /-- A failed EXCHANGE or response check, outside IS_SERVO_ALIVE (R344). -/
  | fail {t : Turn} (c : RetCode) (hseq : s.seq = .check t) : BusMove i s (raiseFail c s)
  | finish {t : Turn} (v : BitVec 16) (hseq : s.seq = .check t) :
      BusMove i s (complete v false {} s)
  | refuseSample {id : Int} (hi : i = .setPosWeakKeep id) (p : Nat) (hseq : s.seq = .check .first) :
      BusMove i s (raiseFail .returnDataWrong { s with latch := { s.latch with keepPos := BitVec.ofNat 16 p } })
  | keepSample {id : Int} (hi : i = .setPosWeakKeep id) {p : Nat} (hp : p ≤ 16383) (hseq : s.seq = .check .first) :
      BusMove i s (goto (.build .second) { s with latch := { s.latch with keepPos := BitVec.ofNat 16 p } })
  | decode (hreads : (requestOf i).op = .readEeprom ∨ (requestOf i).op = .isServoAlive) (hseq : s.seq = .check .first) :
      BusMove i s (goto .decodeBlock s)
  | decoded (hreads : (requestOf i).op = .readEeprom ∨ (requestOf i).op = .isServoAlive) (hseq : s.seq = .decodeBlock) :
      BusMove i s (goto .validateBlock (decodeBlock s))
  | returnRecord {id : Int} (hi : i = .readEeprom id) (hseq : s.seq = .validateBlock) :
      BusMove i s (complete 0 false s.latch.record (validate .read s.latch.record s))
  | refuseBlock {id : Int} (hi : i = .readEeprom id) (hseq : s.seq = .validateBlock) :
      BusMove i s (raiseFail .eepromDataWrong (validate .read s.latch.record s))
  | encode {id : Int} {record : EepromRecord} (hi : i = .writeEeprom id record) (hseq : s.seq = .check .first) :
      BusMove i s (goto .encodeBlock s)
  | encoded {id : Int} {record : EepromRecord} (hi : i = .writeEeprom id record) (hseq : s.seq = .encodeBlock) :
      BusMove i s (goto (.build .second) (encodeBlock id record s))
  | probeRead (hprobe : isProbe i = true) (hcount : s.latch.aliveI < aliveN) (hseq : s.seq = .probeLoop) :
      BusMove i s (goto (.build .first) s)
  | probeStop (hcount : ¬ s.latch.aliveI < aliveN) (hprobe : isProbe i = true) (hseq : s.seq = .probeLoop) :
      BusMove i s (goto .probeFinish s)
  /-- An iteration of IS_SERVO_ALIVE fails a check (R322). -/
  | probeBad (hprobe : isProbe i = true) (hseq : s.seq = .check .first ∨ s.seq = .probeCompare) :
      BusMove i s (goto .probeFail s)
  | probeValidated (hprobe : isProbe i = true) {q : SeqState} (hq : q = .probeCompare ∨ q = .probeFail)
      (hseq : s.seq = .validateBlock) : BusMove i s (goto q (validate .read s.latch.record s))
  | probeGood (hprobe : isProbe i = true) (hseq : s.seq = .probeCompare) : BusMove i s (goto .probeNext s)
  | probeNoted (hprobe : isProbe i = true) {q : SeqState} (hq : q = .probeFinish ∨ q = .probeNext)
      (hseq : s.seq = .probeFail) : BusMove i s (goto q { s with latch := { s.latch with alive := false } })
  | probeCounted (hprobe : isProbe i = true) (hseq : s.seq = .probeNext) :
      BusMove i s (goto .probeLoop { s with latch := { s.latch with aliveI := s.latch.aliveI + 1 } })
  | probeVerdict (hprobe : isProbe i = true) (hseq : s.seq = .probeFinish) :
      BusMove i s (complete 0 s.latch.alive {} s)

/-- Everything a state of INIT or SET_BAUD can do when it moves on from s. -/
inductive LinkMove (i : Instr) (s : State) : State → Prop
  /-- A rate outside BAUD_SET (R150, R151). -/
  | refuseRate (hseq : s.seq = .initAdmit ∨ s.seq = .baudAdmit) :
      LinkMove i s (raiseFail .invalidOption s)
  | initAdmit {baud : Int} {modesel : Bool} (hi : i = .init baud modesel) (hw : i.wellFormed = true)
      (hseq : s.seq = .initAdmit) : LinkMove i s (goto (if modesel then .initDirOn else .initSetBaud) s)
  | initDirOn {baud : Int} {modesel : Bool} (hi : i = .init baud modesel) (hseq : s.seq = .initDirOn) :
      LinkMove i s (goto .initDelay (driveDir true s))
  | initDelay {baud : Int} {modesel : Bool} (hi : i = .init baud modesel) (hseq : s.seq = .initDelay) :
      LinkMove i s (goto .initSetBaud (emit (.delay s.params.startupWindow)
        { s with env := { s.env with delays := s.env.delays - 1 } }))
  | initSetBaud {baud : Int} {modesel : Bool} (hi : i = .init baud modesel) (hseq : s.seq = .initSetBaud) :
      LinkMove i s (goto .initSetFraming (emit (.setBaud (baudRate (baudValue baud))) s))
  | initSetFraming {baud : Int} {modesel : Bool} (hi : i = .init baud modesel) (hseq : s.seq = .initSetFraming) :
      LinkMove i s (goto (if modesel then .initDirOff else .initFinish) (emit (.setFraming 8 .even 1) s))
  | initDirOff {baud : Int} {modesel : Bool} (hi : i = .init baud modesel) (hseq : s.seq = .initDirOff) :
      LinkMove i s (goto .initFinish (driveDir false s))
  | initFinish {baud : Int} {modesel : Bool} (hi : i = .init baud modesel) (hseq : s.seq = .initFinish) :
      LinkMove i s (completePlain { s with cfgBaud := baudValue baud, initDone := true })
  | baudAdmit {baud : Int} (hi : i = .setBaud baud) (hw : i.wellFormed = true) (hseq : s.seq = .baudAdmit) :
      LinkMove i s (goto .baudProgram s)
  | baudProgram {baud : Int} (hi : i = .setBaud baud) (hseq : s.seq = .baudProgram) :
      LinkMove i s (goto .baudFinish (emit (.setBaud (baudRate (baudValue baud))) s))
  | baudFinish {baud : Int} (hi : i = .setBaud baud) (hseq : s.seq = .baudFinish) :
      LinkMove i s (completePlain { s with cfgBaud := baudValue baud })

section

variable {i : Instr} {s t : State}

/-- A check of a response fails, or the operation goes on. -/
theorem BusMove.of_checked {α : Type} {turn : Turn} (hseq : s.seq = .check turn)
    (r : Except RetCode α) {next : α → State → State} (h : ∀ a, BusMove i s (next a s)) :
    BusMove i s (checked r next s) := by
  cases r with
  | ok a => exact h a
  | error c => exact .fail c hseq

/-- Operand checks that come to the first exchange, or end the operation (R342). -/
theorem BusMove.of_admission (hprobe : isProbe i = false) (hwrite : isWriteEeprom i = false)
    (hseq : s.seq = .admission)
    (h : t = raiseFail .invalidOption s ∧ i.wellFormed = false ∨ t = goto (.build .first) s ∧ i.wellFormed = true) :
    BusMove i s t := by
  rcases h with ⟨rfl, hw⟩ | ⟨rfl, hw⟩
  · exact .refuse hw hseq
  · exact .enter hprobe hwrite hw hseq

theorem move_of_setPosStates {id pos : Int} (h : setPosStates id pos s = .next t) : BusMove (.setPos id pos) s t := by
  unfold setPosStates at h
  split at h
  · obtain rfl := Micro.next.inj h
    refine .of_admission rfl rfl ‹_› ?_
    split_ifs <;> simp_all [Instr.wellFormed]
  · obtain rfl := Micro.next.inj h
    exact .send rfl rfl ‹_›
  · exact .exchange ‹_› h
  · obtain rfl := Micro.next.inj h
    exact .of_checked ‹_› _ fun p => .finish _ ‹_›
  · cases h

theorem move_of_setPosWeakStates {id : Int} (h : setPosWeakStates id s = .next t) : BusMove (.setPosWeak id) s t := by
  unfold setPosWeakStates at h
  split at h
  · obtain rfl := Micro.next.inj h
    refine .of_admission rfl rfl ‹_› ?_
    split_ifs <;> simp_all [Instr.wellFormed]
  · obtain rfl := Micro.next.inj h
    exact .send rfl rfl ‹_›
  · exact .exchange ‹_› h
  · obtain rfl := Micro.next.inj h
    exact .of_checked ‹_› _ fun p => .finish _ ‹_›
  · cases h

theorem move_of_setPosWeakKeepStates {id : Int} (h : setPosWeakKeepStates id s = .next t) :
    BusMove (.setPosWeakKeep id) s t := by
  unfold setPosWeakKeepStates at h
  split at h
  · obtain rfl := Micro.next.inj h
    refine .of_admission rfl rfl ‹_› ?_
    split_ifs <;> simp_all [Instr.wellFormed]
  · obtain rfl := Micro.next.inj h
    exact .send rfl rfl ‹_›
  · exact .exchange ‹_› h
  · obtain rfl := Micro.next.inj h
    refine .of_checked ‹_› _ fun p => ?_
    unfold sampleKeep
    split
    · exact .refuseSample rfl p ‹_›
    · exact .keepSample rfl (by omega) ‹_›
  · obtain rfl := Micro.next.inj h
    exact .sendSample rfl ‹_›
  · exact .exchange ‹_› h
  · obtain rfl := Micro.next.inj h
    exact .of_checked ‹_› _ fun p => .finish _ ‹_›
  · cases h

theorem move_of_readParamStates {id : Int} {kind : ParamKind} (h : readParamStates id kind s = .next t) :
    BusMove (.readParam id kind) s t := by
  unfold readParamStates at h
  split at h
  · obtain rfl := Micro.next.inj h
    refine .of_admission rfl rfl ‹_› ?_
    split_ifs <;> simp_all [Instr.wellFormed]
  · obtain rfl := Micro.next.inj h
    exact .send rfl rfl ‹_›
  · exact .exchange ‹_› h
  · obtain rfl := Micro.next.inj h
    exact .of_checked ‹_› _ fun v => .finish _ ‹_›
  · cases h

theorem move_of_writeParamStates {id : Int} {kind : ParamKind} {value : Int}
    (h : writeParamStates id kind value s = .next t) : BusMove (.writeParam id kind value) s t := by
  unfold writeParamStates at h
  split at h
  · obtain rfl := Micro.next.inj h
    refine .of_admission rfl rfl ‹_› ?_
    split_ifs <;> simp_all [Instr.wellFormed, valueInRange, paramRange]
  · obtain rfl := Micro.next.inj h
    exact .send rfl rfl ‹_›
  · exact .exchange ‹_› h
  · obtain rfl := Micro.next.inj h
    exact .of_checked ‹_› _ fun _ => .finish 0 ‹_›
  · cases h

theorem move_of_readEepromStates {id : Int} (h : readEepromStates id s = .next t) : BusMove (.readEeprom id) s t := by
  unfold readEepromStates at h
  split at h
  · obtain rfl := Micro.next.inj h
    refine .of_admission rfl rfl ‹_› ?_
    split_ifs <;> simp_all [Instr.wellFormed]
  · obtain rfl := Micro.next.inj h
    exact .send rfl rfl ‹_›
  · exact .exchange ‹_› h
  · obtain rfl := Micro.next.inj h
    exact .of_checked ‹_› _ fun _ => .decode (.inl rfl) ‹_›
  · obtain rfl := Micro.next.inj h
    exact .decoded (.inl rfl) ‹_›
  · obtain rfl := Micro.next.inj h
    split
    · exact .returnRecord rfl ‹_›
    · exact .refuseBlock rfl ‹_›
  · cases h

theorem move_of_readEepromRawStates {id : Int} (h : readEepromRawStates id s = .next t) :
    BusMove (.readEepromRaw id) s t := by
  unfold readEepromRawStates at h
  split at h
  · obtain rfl := Micro.next.inj h
    refine .of_admission rfl rfl ‹_› ?_
    split_ifs <;> simp_all [Instr.wellFormed]
  · obtain rfl := Micro.next.inj h
    exact .send rfl rfl ‹_›
  · exact .exchange ‹_› h
  · obtain rfl := Micro.next.inj h
    exact .of_checked ‹_› _ fun _ => .finish 0 ‹_›
  · cases h

theorem move_of_writeEepromStates {id : Int} {record : EepromRecord} (h : writeEepromStates id record s = .next t) :
    BusMove (.writeEeprom id record) s t := by
  unfold writeEepromStates at h
  split at h
  · obtain rfl := Micro.next.inj h
    split
    · exact .refuse (by simp_all [Instr.wellFormed]) ‹_›
    · exact .enterRecord rfl (by simp_all) ‹_›
  · obtain rfl := Micro.next.inj h
    split
    · exact .acceptRecord rfl ‹_› ‹_›
    · exact .refuseRecord rfl (by simp_all) ‹_›
  · obtain rfl := Micro.next.inj h
    exact .send rfl rfl ‹_›
  · exact .exchange ‹_› h
  · obtain rfl := Micro.next.inj h
    exact .of_checked ‹_› _ fun _ => .encode rfl ‹_›
  · obtain rfl := Micro.next.inj h
    exact .encoded rfl ‹_›
  · obtain rfl := Micro.next.inj h
    exact .callWrite rfl ‹_›
  · exact .exchange ‹_› h
  · obtain rfl := Micro.next.inj h
    exact .of_checked ‹_› _ fun _ => .finish 0 ‹_›
  · cases h

theorem move_of_getIdStates (h : getIdStates s = .next t) : BusMove .getId s t := by
  unfold getIdStates at h
  split at h
  · obtain rfl := Micro.next.inj h
    exact .enter rfl rfl rfl ‹_›
  · obtain rfl := Micro.next.inj h
    exact .send rfl rfl ‹_›
  · exact .exchange ‹_› h
  · obtain rfl := Micro.next.inj h
    exact .of_checked ‹_› _ fun v => .finish _ ‹_›
  · cases h

theorem move_of_setIdStates {id : Int} (h : setIdStates id s = .next t) : BusMove (.setId id) s t := by
  unfold setIdStates at h
  split at h
  · obtain rfl := Micro.next.inj h
    refine .of_admission rfl rfl ‹_› ?_
    split_ifs <;> simp_all [Instr.wellFormed]
  · obtain rfl := Micro.next.inj h
    exact .send rfl rfl ‹_›
  · exact .exchange ‹_› h
  · obtain rfl := Micro.next.inj h
    exact .of_checked ‹_› _ fun _ => .finish 0 ‹_›
  · cases h

theorem move_of_isServoAliveStates {id : Int} (h : isServoAliveStates id s = .next t) :
    BusMove (.isServoAlive id) s t := by
  unfold isServoAliveStates at h
  split at h
  · obtain rfl := Micro.next.inj h
    split
    · exact .refuse (by simp_all [Instr.wellFormed]) ‹_›
    · exact .enterProbe rfl (by simp_all [Instr.wellFormed]) ‹_›
  · obtain rfl := Micro.next.inj h
    split
    · exact .probeRead rfl ‹_› ‹_›
    · exact .probeStop ‹_› rfl ‹_›
  · obtain rfl := Micro.next.inj h
    exact .send rfl rfl ‹_›
  · exact .exchange ‹_› h
  · obtain rfl := Micro.next.inj h
    split
    · exact .decode (.inr rfl) ‹_›
    · exact .probeBad rfl (.inl ‹_›)
  · obtain rfl := Micro.next.inj h
    exact .decoded (.inr rfl) ‹_›
  · obtain rfl := Micro.next.inj h
    split
    · exact .probeValidated rfl (.inl rfl) ‹_›
    · exact .probeValidated rfl (.inr rfl) ‹_›
  · obtain rfl := Micro.next.inj h
    split
    · exact .probeGood rfl ‹_›
    · exact .probeBad rfl (.inr ‹_›)
  · obtain rfl := Micro.next.inj h
    split
    · exact .probeNoted rfl (.inl rfl) ‹_›
    · exact .probeNoted rfl (.inr rfl) ‹_›
  · obtain rfl := Micro.next.inj h
    exact .probeCounted rfl ‹_›
  · obtain rfl := Micro.next.inj h
    exact .probeVerdict rfl ‹_›
  · cases h

theorem move_of_initStates {baud : Int} {modesel : Bool} (h : initStates baud modesel s = .next t) :
    LinkMove (.init baud modesel) s t := by
  unfold initStates at h
  split at h
  · obtain rfl := Micro.next.inj h
    split
    · exact .refuseRate (.inl ‹_›)
    · exact .initAdmit rfl (by simp_all [Instr.wellFormed, Option.isSome_iff_ne_none]) ‹_›
  · obtain rfl := Micro.next.inj h
    exact .initDirOn rfl ‹_›
  · split at h
    · cases h
    · obtain rfl := Micro.next.inj h
      exact .initDelay rfl ‹_›
  · obtain rfl := Micro.next.inj h
    exact .initSetBaud rfl ‹_›
  · obtain rfl := Micro.next.inj h
    exact .initSetFraming rfl ‹_›
  · obtain rfl := Micro.next.inj h
    exact .initDirOff rfl ‹_›
  · obtain rfl := Micro.next.inj h
    exact .initFinish rfl ‹_›
  · cases h

theorem move_of_setBaudStates {baud : Int} (h : setBaudStates baud s = .next t) : LinkMove (.setBaud baud) s t := by
  unfold setBaudStates at h
  split at h
  · obtain rfl := Micro.next.inj h
    split
    · exact .refuseRate (.inr ‹_›)
    · exact .baudAdmit rfl (by simp_all [Instr.wellFormed, Option.isSome_iff_ne_none]) ‹_›
  · obtain rfl := Micro.next.inj h
    exact .baudProgram rfl ‹_›
  · obtain rfl := Micro.next.inj h
    exact .baudFinish rfl ‹_›
  · cases h

/-- Whatever a state of a bus operation does when it moves on is one of the moves: a mnemonic's are those of the request
it is (R113). -/
theorem busMove_of_statesOf (hbus : usesBus i = true) (h : statesOf i s = .next t) :
    BusMove (instrOf (requestOf i)) s t := by
  cases i with
  | init | setBaud => cases hbus
  | setPos => exact move_of_setPosStates h
  | setPosWeak => exact move_of_setPosWeakStates h
  | setPosWeakKeep => exact move_of_setPosWeakKeepStates h
  | readParam | readStretch | readSpeed | readCurrent | readTemperature => exact move_of_readParamStates h
  | writeParam | writeStretch | writeSpeed | writeCurrent | writeTemperature => exact move_of_writeParamStates h
  | readEeprom => exact move_of_readEepromStates h
  | readEepromRaw => exact move_of_readEepromRawStates h
  | writeEeprom => exact move_of_writeEepromStates h
  | isServoAlive => exact move_of_isServoAliveStates h
  | getId => exact move_of_getIdStates h
  | setId => exact move_of_setIdStates h

theorem linkMove_of_statesOf (hlink : usesBus i = false) (h : statesOf i s = .next t) : LinkMove i s t := by
  cases i <;> cases hlink
  case init => exact move_of_initStates h
  case setBaud => exact move_of_setBaudStates h

end

end Sys2Proof
end

section
/-!
SUPPORT. What every state of an operation leaves alone, and so every step and every run (R25, R72, R76, R340): the
frames.
-/

namespace Sys2Proof

open Machine

/-! ## The outside -/

/-- e' is the outside e after some of the block's actions: requests and resets as they were, answers taken oldest
first, port actions only added (R42, R72; notes/assumptions/2.md). -/
structure Onward (e e' : Env) : Prop where
  requests : e'.requests = e.requests
  resets : e'.resets = e.resets
  writes : e'.writes <:+ e.writes
  avails : e'.avails <:+ e.avails
  reads : e'.reads <:+ e.reads
  delays : e'.delays ≤ e.delays
  draws : e.draws ≤ e'.draws
  trace : e.trace <+: e'.trace

theorem Onward.refl (e : Env) : Onward e e :=
  ⟨rfl, rfl, List.suffix_refl _, List.suffix_refl _, List.suffix_refl _, le_refl _, le_refl _, List.prefix_refl _⟩

/-- An action made changes the trace alone. -/
theorem onward_emit (e : Env) (a : PortAction) : Onward e { e with trace := e.trace ++ [a] } :=
  { Onward.refl e with trace := List.prefix_append _ _ }

theorem Onward.trans {e e' e'' : Env} (h : Onward e e') (h' : Onward e' e'') : Onward e e'' :=
  ⟨h'.requests.trans h.requests, h'.resets.trans h.resets, h'.writes.trans h.writes, h'.avails.trans h.avails,
    h'.reads.trans h.reads, h'.delays.trans h.delays, h.draws.trans h'.draws, h.trace.trans h'.trace⟩

theorem onward_takeWrite (e : Env) : Onward e (takeWrite e).2 := by
  have hdraws : e.draws ≤ (takeWrite e).2.draws := by cases hw : e.writes <;> simp [takeWrite, hw]
  refine { Onward.refl e with
    requests := by simp, resets := by simp, writes := ?_, avails := by simp, reads := by simp, delays := by simp
    draws := hdraws, trace := by simp }
  rw [takeWrite_writes]
  exact List.tail_suffix _

theorem onward_takeAvail (e : Env) : Onward e (takeAvail e).2 := by
  have hdraws : e.draws ≤ (takeAvail e).2.draws := by cases ha : e.avails <;> simp [takeAvail, ha]
  refine { Onward.refl e with
    requests := by simp, resets := by simp, writes := by simp, avails := ?_, reads := by simp, delays := by simp
    draws := hdraws, trace := by simp }
  rw [takeAvail_avails]
  exact List.tail_suffix _

theorem onward_reads {e : Env} {bytes : List Byte} {rs : List (List Byte)} (h : e.reads = bytes :: rs) :
    Onward e { e with reads := rs } :=
  { Onward.refl e with reads := h ▸ List.suffix_cons bytes rs }

/-! ## One state of EXCHANGE -/

/-- A port action an EXCHANGE of s can make: nothing of the link, and no bytes written but TXBUF's, in EX_WRITE
(R141). -/
def ExchangeAction (s : State) : PortAction → Prop
  | .write bytes _ => (∃ t, s.seq = .exchange t .write) ∧ bytes = memReadList s.txbuf 0 s.latch.exN.toNat
  | .delay _ => False
  | .setBaud _ => False
  | .setFraming _ _ _ => False
  | _ => True

/-- The port actions made from s to t are an EXCHANGE's. -/
def OnlyExchangeActions (s t : State) : Prop :=
  ∃ made, t.env.trace = s.env.trace ++ made ∧ ∀ a ∈ made, ExchangeAction s a

theorem onlyExchangeActions_none {s t : State} (h : t.env.trace = s.env.trace) : OnlyExchangeActions s t :=
  ⟨[], by rw [h, List.append_nil], by simp⟩

theorem onlyExchangeActions_one {s t : State} {a : PortAction} (h : t.env.trace = s.env.trace ++ [a])
    (ha : ExchangeAction s a) : OnlyExchangeActions s t :=
  ⟨[a], h, by simpa using ha⟩

/-- What one EXCHANGE state leaves alone (R141). -/
structure ExchangeFrame (s t : State) : Prop where
  busy : t.seq ≠ .idle
  cfgBaud : t.cfgBaud = s.cfgBaud
  cfgDrain : t.cfgDrain = s.cfgDrain
  initDone : t.initDone = s.initDone
  params : t.params = s.params
  res : t.res = s.res
  latch : t.latch = { s.latch with exW := t.latch.exW, exR := t.latch.exR, exRet := t.latch.exRet }
  env : Onward s.env t.env
  delays : t.env.delays = s.env.delays
  made : OnlyExchangeActions s t

theorem exchangeStep_frame {t : Turn} {m : ExState} {s s' : State} (hs : s.seq = .exchange t m)
    (h : exchangeStep t m s = .next s') : ExchangeFrame s s' := by
  rcases exchangeStep_cases h with ⟨rfl, rfl⟩ | ⟨rfl, -, rfl⟩ | ⟨rfl, rfl⟩ | ⟨rfl, rfl⟩ | ⟨rfl, -, rfl⟩ |
    ⟨rfl, -, rfl⟩ | ⟨rfl, rfl⟩ | ⟨rfl, -, rfl⟩ | ⟨rfl, -, -, rfl⟩ | ⟨rfl, -, -, bytes, rs, hr, rfl⟩ |
    ⟨rfl, -, bytes, rs, hr, rfl⟩ | ⟨rfl, -, rfl⟩ | ⟨rfl, -, rfl⟩
  · exact ⟨by simp, rfl, rfl, rfl, rfl, rfl, rfl, onward_emit _ _, rfl, onlyExchangeActions_one rfl trivial⟩
  · have hmade := onlyExchangeActions_one (s := s) (a := .write (memReadList s.txbuf 0 s.latch.exN.toNat)
      (min (takeWrite s.env).1 s.latch.exN.toNat)) (t := goto (.exchange t .dirOff) (emit _ { s with
        latch := { s.latch with exW := BitVec.ofNat 7 (min (takeWrite s.env).1 s.latch.exN.toNat) }
        env := (takeWrite s.env).2 })) (by rw [goto_env, emit_env, takeWrite_trace]) ⟨⟨t, hs⟩, rfl⟩
    exact ⟨by simp, rfl, rfl, rfl, rfl, rfl, rfl, (onward_takeWrite s.env).trans (onward_emit _ _),
      takeWrite_delays s.env, hmade⟩
  · exact ⟨by simp, rfl, rfl, rfl, rfl, rfl, rfl, onward_emit _ _, rfl, onlyExchangeActions_one rfl trivial⟩
  · exact ⟨by simp, rfl, rfl, rfl, rfl, rfl, rfl, .refl _, rfl, onlyExchangeActions_none rfl⟩
  · exact ⟨by simp, rfl, rfl, rfl, rfl, rfl, rfl, .refl _, rfl, onlyExchangeActions_none rfl⟩
  · exact ⟨by simp, rfl, rfl, rfl, rfl, rfl, rfl, .refl _, rfl, onlyExchangeActions_none rfl⟩
  · exact ⟨by simp, rfl, rfl, rfl, rfl, rfl, rfl, .refl _, rfl, onlyExchangeActions_none rfl⟩
  · exact ⟨by simp, rfl, rfl, rfl, rfl, rfl, rfl, .refl _, rfl, onlyExchangeActions_none rfl⟩
  · have hmade := onlyExchangeActions_one (s := s) (a := .avail 0) (t := goto (.exchange t .read) (emit _ { s with
        env := (takeAvail s.env).2 })) (by rw [goto_env, emit_env, takeAvail_trace]) trivial
    exact ⟨by simp, rfl, rfl, rfl, rfl, rfl, rfl, (onward_takeAvail s.env).trans (onward_emit _ _),
      takeAvail_delays s.env, hmade⟩
  · have hreads : (takeAvail s.env).2.reads = bytes :: rs := by rw [takeAvail_reads, hr]
    exact ⟨by simp [hs], rfl, rfl, rfl, rfl, rfl, rfl,
      (((onward_takeAvail s.env).trans (onward_reads hreads)).trans (onward_emit _ _)).trans (onward_emit _ _),
      takeAvail_delays s.env,
      [.avail (takeAvail s.env).1, .read (takeAvail s.env).1 (bytes.take (takeAvail s.env).1)],
      by simp, by simp [ExchangeAction]⟩
  · exact ⟨by simp, rfl, rfl, rfl, rfl, rfl, rfl, (onward_reads hr).trans (onward_emit _ _), rfl,
      onlyExchangeActions_one rfl trivial⟩
  · exact ⟨by simp, rfl, rfl, rfl, rfl, rfl, rfl, .refl _, rfl, onlyExchangeActions_none rfl⟩
  · exact ⟨by simp, rfl, rfl, rfl, rfl, rfl, rfl, .refl _, rfl, onlyExchangeActions_none rfl⟩

/-! ## One state of an operation -/

/-- What one state of the operation i leaves alone, whatever the operation. -/
structure MoveFrame (i : Instr) (s t : State) : Prop where
  request : latchedRequest t = latchedRequest s
  cfgDrain : t.cfgDrain = s.cfgDrain
  params : t.params = s.params
  env : Onward s.env t.env
  results : t.seq ≠ .idle → t.res.ret = s.res.ret ∧ t.res.outValue = s.res.outValue ∧
    t.res.outAlive = s.res.outAlive ∧ t.res.outRec = s.res.outRec ∧
    (validates i = false → t.res.invalidMask = s.res.invalidMask)

/-- What one state of a bus operation leaves alone besides (R25, R141). -/
structure BusFrame (i : Instr) (s t : State) : Prop extends MoveFrame i s t where
  cfgBaud : t.cfgBaud = s.cfgBaud
  initDone : t.initDone = s.initDone
  delays : t.env.delays = s.env.delays
  made : OnlyExchangeActions s t

/-- What one state of INIT or SET_BAUD leaves alone besides (R150, R151). -/
structure LinkFrame (i : Instr) (s t : State) : Prop extends MoveFrame i s t where
  txbuf : t.txbuf = s.txbuf
  rxbuf : t.rxbuf = s.rxbuf
  writes : t.env.writes = s.env.writes
  avails : t.env.avails = s.env.avails
  reads : t.env.reads = s.env.reads
  draws : t.env.draws = s.env.draws
  setBaud : isInit i = false → t.dir = s.dir ∧ t.initDone = s.initDone
  made : ∃ made, t.env.trace = s.env.trace ++ made ∧ ∀ bytes w, PortAction.write bytes w ∉ made

section

variable {i : Instr} {s t : State}

/-- A state whose effect is on STATE and the latches, or that ends the operation. -/
theorem BusFrame.of_quiet (hrequest : latchedRequest t = latchedRequest s) (hcfg : SameConfig s t)
    (henv : t.env = s.env) (hres : t.seq ≠ .idle → t.res = s.res) : BusFrame i s t where
  request := hrequest
  cfgDrain := hcfg.cfgDrain
  params := hcfg.params
  env := henv ▸ .refl _
  results := fun hbusy => by rw [hres hbusy]; exact ⟨rfl, rfl, rfl, rfl, fun _ => rfl⟩
  cfgBaud := hcfg.cfgBaud
  initDone := hcfg.initDone
  delays := by rw [henv]
  made := onlyExchangeActions_none (by rw [henv])

/-- A state that validates a record and goes on (R271). -/
theorem BusFrame.of_validate (hval : validates i = true) (mode : ValidationMode) (record : EepromRecord)
    (q : SeqState) : BusFrame i s (goto q (validate mode record s)) :=
  ⟨⟨rfl, rfl, rfl, .refl _, fun _ => ⟨rfl, rfl, rfl, rfl, by simp [hval]⟩⟩, rfl, rfl, rfl, onlyExchangeActions_none rfl⟩

theorem ExchangeFrame.busFrame (h : ExchangeFrame s t) : BusFrame i s t :=
  have hrequest : latchedRequest t = latchedRequest s := by rw [latchedRequest, h.latch]; rfl
  ⟨⟨hrequest, h.cfgDrain, h.params, h.env,
    fun _ => by rw [h.res]; exact ⟨rfl, rfl, rfl, rfl, fun _ => rfl⟩⟩, h.cfgBaud, h.initDone, h.delays, h.made⟩

theorem BusMove.frame (h : BusMove i s t) : BusFrame i s t := by
  cases h
  case exchange hseq hstep => exact (exchangeStep_frame hseq hstep).busFrame
  case acceptRecord hi _ _ => exact .of_validate (by rw [hi]; rfl) _ _ _
  case probeValidated hprobe _ _ _ => exact .of_validate (by cases i <;> cases hprobe; rfl) _ _ _
  case refuse | refuseRecord | fail | finish | refuseSample | returnRecord | refuseBlock | probeVerdict =>
    exact .of_quiet rfl ⟨rfl, rfl, rfl, rfl⟩ rfl fun hbusy => absurd rfl hbusy
  all_goals exact .of_quiet rfl ⟨rfl, rfl, rfl, rfl⟩ rfl fun _ => rfl

theorem LinkMove.frame (h : LinkMove i s t) : LinkFrame i s t := by
  have hsame : s.res.ret = s.res.ret ∧ s.res.outValue = s.res.outValue ∧ s.res.outAlive = s.res.outAlive ∧
      s.res.outRec = s.res.outRec ∧ (validates i = false → s.res.invalidMask = s.res.invalidMask) :=
    ⟨rfl, rfl, rfl, rfl, fun _ => rfl⟩
  have hnone : ∃ made, s.env.trace = s.env.trace ++ made ∧ ∀ bytes w, PortAction.write bytes w ∉ made :=
    ⟨[], (List.append_nil _).symm, by simp⟩
  have hone : ∀ a, (∀ bytes w, PortAction.write bytes w ≠ a) → ∃ made, s.env.trace ++ [a] = s.env.trace ++ made ∧
      ∀ bytes w, PortAction.write bytes w ∉ made := fun a ha => ⟨[a], rfl, by simpa using ha⟩
  cases h
  case refuseRate =>
    exact ⟨⟨rfl, rfl, rfl, .refl _, fun hbusy => absurd rfl hbusy⟩, rfl, rfl, rfl, rfl, rfl, rfl, fun _ => ⟨rfl, rfl⟩,
      hnone⟩
  case initAdmit =>
    exact ⟨⟨rfl, rfl, rfl, .refl _, fun _ => hsame⟩, rfl, rfl, rfl, rfl, rfl, rfl, fun _ => ⟨rfl, rfl⟩, hnone⟩
  case initDirOn hi _ | initDirOff hi _ =>
    exact ⟨⟨rfl, rfl, rfl, onward_emit _ _, fun _ => hsame⟩, rfl, rfl, rfl, rfl, rfl, rfl, by simp [hi, isInit],
      hone _ (by simp)⟩
  case initDelay hi _ =>
    exact ⟨⟨rfl, rfl, rfl, { onward_emit s.env _ with delays := Nat.sub_le _ _ }, fun _ => hsame⟩, rfl, rfl, rfl, rfl,
      rfl, rfl, fun _ => ⟨rfl, rfl⟩, hone _ (by simp)⟩
  case initFinish hi _ =>
    exact ⟨⟨rfl, rfl, rfl, .refl _, fun hbusy => absurd rfl hbusy⟩, rfl, rfl, rfl, rfl, rfl, rfl, by simp [hi, isInit],
      hnone⟩
  case initSetBaud | initSetFraming | baudProgram =>
    exact ⟨⟨rfl, rfl, rfl, onward_emit _ _, fun _ => hsame⟩, rfl, rfl, rfl, rfl, rfl, rfl, fun _ => ⟨rfl, rfl⟩,
      hone _ (by simp)⟩
  case baudAdmit =>
    exact ⟨⟨rfl, rfl, rfl, .refl _, fun _ => hsame⟩, rfl, rfl, rfl, rfl, rfl, rfl, fun _ => ⟨rfl, rfl⟩, hnone⟩
  case baudFinish =>
    exact ⟨⟨rfl, rfl, rfl, .refl _, fun hbusy => absurd rfl hbusy⟩, rfl, rfl, rfl, rfl, rfl, rfl, fun _ => ⟨rfl, rfl⟩,
      hnone⟩

theorem usesBus_instrOf (i : Instr) : usesBus (instrOf (requestOf i)) = usesBus i := by cases i <;> rfl

theorem validates_instrOf (i : Instr) : validates (instrOf (requestOf i)) = validates i := by cases i <;> rfl

theorem busFrame_of_statesOf (hbus : usesBus i = true) (h : statesOf i s = .next t) :
    BusFrame (instrOf (requestOf i)) s t := (busMove_of_statesOf hbus h).frame

theorem linkFrame_of_statesOf (hlink : usesBus i = false) (h : statesOf i s = .next t) : LinkFrame i s t :=
  (linkMove_of_statesOf hlink h).frame

/-- What a state of any operation leaves alone. -/
theorem moveFrame_of_statesOf (h : statesOf i s = .next t) : MoveFrame i s t := by
  cases hbus : usesBus i with
  | true =>
    have hframe := (busFrame_of_statesOf hbus h).toMoveFrame
    exact { hframe with results := fun hbusy => by simpa only [validates_instrOf] using hframe.results hbusy }
  | false => exact (linkFrame_of_statesOf hbus h).toMoveFrame

end

/-! ## Runs of an operation -/

/-- What every state of i keeps from the moment i is accepted, or is going on, its execution keeps; a busy block and
another request change nothing (R342, R347). -/
theorem exec_keeps {i : Instr} {P : State → Prop}
    (hstep : ∀ s s', P s → s.seq ≠ .idle → statesOf i s = .next s' → P s')
    {s t : State} (hs : P s) (haccept : s.seq = .idle → P (accept (requestOf i) s)) (h : exec i s = .next t) : P t := by
  rw [exec_eq_operate] at h
  rcases operate_cases h with ⟨-, -, -, ho⟩ | ⟨hidle, -, ho⟩ | ⟨-, -, ho⟩ | ⟨-, -, ho⟩
  · cases ho
  · exact drive_keeps hstep (haccept hidle) ho.symm
  · exact drive_keeps hstep hs ho.symm
  · exact Host.Outcome.next.inj ho ▸ hs

/-- Settles O46: every state of a bus operation keeps what `BusFrame` names, and so does its run (`exec_keeps`). -/
theorem busOperationFrame : Obligations.BusOperationFrame := by
  intro i s t hbus h
  refine exec_keeps (P := fun u => u.cfgBaud = s.cfgBaud ∧ u.cfgDrain = s.cfgDrain ∧ u.initDone = s.initDone ∧
    u.params = s.params ∧ u.env.requests = s.env.requests ∧ u.env.delays = s.env.delays ∧
    u.env.resets = s.env.resets ∧ ∃ made, u.env.trace = s.env.trace ++ made ∧
      ∀ a ∈ made, (∀ d, a ≠ .delay d) ∧ (∀ rate, a ≠ .setBaud rate) ∧ ∀ n p k, a ≠ .setFraming n p k) ?_
    ⟨rfl, rfl, rfl, rfl, rfl, rfl, rfl, [], (List.append_nil _).symm, by simp⟩
    (fun _ => ⟨rfl, rfl, rfl, rfl, rfl, rfl, rfl, [], (List.append_nil _).symm, by simp⟩) h
  rintro u v ⟨hbaud, hdrain, hinit, hparams, hrequests, hdelays, hresets, made, htrace, hmade⟩ - hstep
  have hf := busFrame_of_statesOf hbus hstep
  obtain ⟨more, hmore, hactions⟩ := hf.made
  refine ⟨hf.cfgBaud.trans hbaud, hf.cfgDrain.trans hdrain, hf.initDone.trans hinit, hf.params.trans hparams,
    hf.env.requests.trans hrequests, hf.delays.trans hdelays, hf.env.resets.trans hresets, made ++ more,
    by rw [hmore, htrace, List.append_assoc], fun a ha => ?_⟩
  rcases List.mem_append.mp ha with ha | ha
  · exact hmade a ha
  · have hexchange := hactions a ha
    cases a <;> simp_all [ExchangeAction]

/-- Settles O47: every state of INIT and SET_BAUD keeps what `LinkFrame` names, and so does the run. -/
theorem linkOperationFrame : Obligations.LinkOperationFrame := by
  intro i s t hlink h
  have hkeep : t.txbuf = s.txbuf ∧ t.rxbuf = s.rxbuf ∧ t.cfgDrain = s.cfgDrain ∧ t.params = s.params ∧
      t.env.requests = s.env.requests ∧ t.env.writes = s.env.writes ∧ t.env.avails = s.env.avails ∧
      t.env.reads = s.env.reads ∧ t.env.draws = s.env.draws ∧ t.env.resets = s.env.resets ∧
      (isInit i = false → t.dir = s.dir ∧ t.initDone = s.initDone) := by
    refine exec_keeps (P := fun u => u.txbuf = s.txbuf ∧ u.rxbuf = s.rxbuf ∧ u.cfgDrain = s.cfgDrain ∧
      u.params = s.params ∧ u.env.requests = s.env.requests ∧ u.env.writes = s.env.writes ∧
      u.env.avails = s.env.avails ∧ u.env.reads = s.env.reads ∧ u.env.draws = s.env.draws ∧
      u.env.resets = s.env.resets ∧ (isInit i = false → u.dir = s.dir ∧ u.initDone = s.initDone)) ?_
      ⟨rfl, rfl, rfl, rfl, rfl, rfl, rfl, rfl, rfl, rfl, fun _ => ⟨rfl, rfl⟩⟩
      (fun _ => ⟨rfl, rfl, rfl, rfl, rfl, rfl, rfl, rfl, rfl, rfl, fun _ => ⟨rfl, rfl⟩⟩) h
    rintro u v ⟨htx, hrx, hdrain, hparams, hrequests, hwrites, havails, hreads, hdraws, hresets, hset⟩ - hstep
    have hf := linkFrame_of_statesOf hlink hstep
    exact ⟨hf.txbuf.trans htx, hf.rxbuf.trans hrx, hf.cfgDrain.trans hdrain, hf.params.trans hparams,
      hf.env.requests.trans hrequests, hf.writes.trans hwrites, hf.avails.trans havails, hf.reads.trans hreads,
      hf.draws.trans hdraws, hf.env.resets.trans hresets, fun hi =>
        ⟨(hf.setBaud hi).1.trans (hset hi).1, (hf.setBaud hi).2.trans (hset hi).2⟩⟩
  obtain ⟨htx, hrx, hrest⟩ := hkeep
  exact ⟨fun a => by rw [htx], fun a => by rw [hrx], hrest⟩

/-- Settles O48: until IDLE every state keeps the result registers, INVALID_MASK apart where the operation validates
(`MoveFrame.results`). -/
theorem resultsAreWrittenAtTheEnd : Obligations.ResultsAreWrittenAtTheEnd := by
  intro i s t h
  refine exec_keeps (P := fun u => u.seq ≠ .idle → u.res.ret = s.res.ret ∧ u.res.outValue = s.res.outValue ∧
    u.res.outAlive = s.res.outAlive ∧ u.res.outRec = s.res.outRec ∧
    (validates i = false → u.res.invalidMask = s.res.invalidMask)) ?_
    (fun _ => ⟨rfl, rfl, rfl, rfl, fun _ => rfl⟩) (fun _ _ => ⟨rfl, rfl, rfl, rfl, fun _ => rfl⟩) h
  intro u v hu hbusy hstep hv
  obtain ⟨hret, hvalue, halive, hrec, hmask⟩ := hu hbusy
  obtain ⟨hret', hvalue', halive', hrec', hmask'⟩ := (moveFrame_of_statesOf hstep).results hv
  exact ⟨hret'.trans hret, hvalue'.trans hvalue, halive'.trans halive, hrec'.trans hrec,
    fun hval => (hmask' hval).trans (hmask hval)⟩

/-! ## Steps -/

/-- What one step of the sequencer can be, by what it comes to: the state as it is, a request taken, or a state of the
operation in progress. -/
theorem sequencerStep_next {s t : State} (h : sequencerStep s = .next t) :
    t = s ∨
    (s.seq = .idle ∧ ∃ i rest, s.env.requests = i :: rest ∧ ((requestOf i).op = .init ∨ s.initDone = true) ∧
      t = accept (requestOf i) (takeRequest s)) ∨
    (s.seq ≠ .idle ∧ ∃ i, latchedInstr s = some i ∧ statesOf i s = .next t) := by
  rcases sequencerStep_cases h with ⟨-, -, ho⟩ | ⟨hidle, i, rest, hr, ⟨hinit, ho⟩ | ⟨-, -, ho⟩⟩ | ⟨-, -, ho⟩ |
    ⟨hbusy, i, hi, ⟨u, hu, ho⟩ | ⟨-, ho⟩ | ⟨f, -, ho⟩⟩ <;> cases ho
  · exact .inl rfl
  · exact .inr (.inl ⟨hidle, i, rest, hr, hinit, rfl⟩)
  · exact .inl rfl
  · exact .inr (.inr ⟨hbusy, i, hi, hu⟩)
  · exact .inl rfl

/-- What a step of the sequencer leaves alone. -/
theorem sequencerStep_frame {s t : State} (h : sequencerStep s = .next t) :
    t.params = s.params ∧ t.cfgDrain = s.cfgDrain ∧ s.env.trace <+: t.env.trace ∧
    t.env.writes <:+ s.env.writes ∧ t.env.avails <:+ s.env.avails ∧ t.env.reads <:+ s.env.reads ∧
    t.env.requests <:+ s.env.requests ∧ t.env.resets = s.env.resets ∧ t.env.delays ≤ s.env.delays ∧
    s.env.draws ≤ t.env.draws := by
  rcases sequencerStep_next h with rfl | ⟨-, i, rest, -, -, rfl⟩ | ⟨-, i, -, hstep⟩
  · exact ⟨rfl, rfl, List.prefix_refl _, List.suffix_refl _, List.suffix_refl _, List.suffix_refl _, List.suffix_refl _,
      rfl, le_refl _, le_refl _⟩
  · exact ⟨rfl, rfl, List.prefix_refl _, List.suffix_refl _, List.suffix_refl _, List.suffix_refl _, List.tail_suffix _,
      rfl, le_refl _, le_refl _⟩
  · have hf := moveFrame_of_statesOf hstep
    exact ⟨hf.params, hf.cfgDrain, hf.env.trace, hf.env.writes, hf.env.avails, hf.env.reads,
      hf.env.requests ▸ List.suffix_refl _, hf.env.resets, hf.env.delays, hf.env.draws⟩

/-- Settles O45: a reset touches the outside in its own word alone, and a step of the sequencer is
`sequencerStep_frame`. -/
theorem stepsOnlyAddPortActions : Obligations.StepsOnlyAddPortActions := by
  intro s t h
  rcases step_cases s with ⟨hreset, hs⟩ | ⟨hreset, hs⟩ <;> rw [hs] at h
  · obtain rfl := Host.Outcome.next.inj h
    exact ⟨rfl, fun hno => absurd hreset hno, fun _ => rfl, List.prefix_refl _, List.suffix_refl _, List.suffix_refl _,
      List.suffix_refl _, List.suffix_refl _, rfl, le_refl _, le_refl _⟩
  · obtain ⟨hparams, hdrain, hrest⟩ := sequencerStep_frame h
    exact ⟨hparams, fun _ => hdrain, fun hyes => absurd hyes hreset, hrest⟩

/-- A busy block with no reset coming does what its operation's state says (R28). -/
theorem step_busy {s : State} {i : Instr} (hquiet : s.env.resets = []) (hbusy : s.seq ≠ .idle)
    (hi : latchedInstr s = some i) : step s = drive (statesOf i) 1 s := by
  rw [step_quiet hquiet, sequencerStep, if_neg hbusy]
  simp only [hi]

theorem step_accept {s : State} {i : Instr} {rest : List Instr} (hquiet : s.env.resets = []) (hidle : s.seq = .idle)
    (hr : s.env.requests = i :: rest) : step s = start (requestOf i) (takeRequest s) := by
  rw [step_quiet hquiet, sequencerStep, if_pos hidle]
  simp only [hr, List.head?_cons]

theorem op_eq_init_iff (i : Instr) : (requestOf i).op = .init ↔ isInit i = true := by
  cases i <;> simp [requestOf, isInit]

/-- Settles O51: IDLE's step is `start` (`step_accept`), a busy block's is its operation's state (`step_busy`). -/
theorem stepRunsTheRequestedOperation : Obligations.StepRunsTheRequestedOperation := by
  intro s hquiet
  refine ⟨fun i rest hidle hr => ?_, fun hidle hr => ?_, fun i hbusy hi => ?_⟩
  · have htake : takeRequest s = { s with env := { s.env with requests := rest } } := by
      simp only [takeRequest, hr, List.tail_cons]
    rw [step_accept hquiet hidle hr, start, htake]
    simp only [op_eq_init_iff]
    rfl
  · rw [step_quiet hquiet, sequencerStep, if_pos hidle]
    simp only [hr, List.head?_nil]
  · rw [step_busy hquiet hbusy hi, drive_one hbusy]
    exact ⟨fun t ht => by rw [ht], fun hw => by rw [hw], fun f hf => by rw [hf]⟩

/-! ## Steps and executions -/

/-- The steps of a busy block come to what the run of its operation's states comes to (R28; notes/assumptions/1.md). -/
theorem exists_steps_eq_drive {i : Instr} (n : Nat) : ∀ {s : State}, s.env.resets = [] →
    (s.seq ≠ .idle → latchedInstr s = some i) → ∃ k, steps k s = drive (statesOf i) n s := by
  induction n with
  | zero => exact fun _ _ => ⟨0, rfl⟩
  | succ n ih =>
    intro s hquiet hlatched
    by_cases hidle : s.seq = .idle
    · exact ⟨0, (drive_idle hidle _).symm⟩
    · have hstep := step_busy hquiet hidle (hlatched hidle)
      rw [drive_one hidle] at hstep
      cases hp : statesOf i s with
      | next t =>
        have hf := moveFrame_of_statesOf hp
        have hrequest : latchedInstr t = some i := by
          rw [latchedInstr, hf.request]
          exact hlatched hidle
        obtain ⟨k, hk⟩ := ih (hf.env.resets.trans hquiet) fun _ => hrequest
        refine ⟨k + 1, ?_⟩
        rw [hp] at hstep
        rw [steps, hstep, drive_next hidle hp]
        exact hk
      | wait => exact ⟨0, (drive_wait hp _).symm⟩
      | fault f =>
        rw [hp] at hstep
        refine ⟨1, ?_⟩
        rw [steps, hstep]
        simp [drive, hidle, hp]

/-- Settles O57: after the request is taken, or inside the operation, the steps are its states one by one
(`exists_steps_eq_drive`). -/
theorem stepsComeToTheOperation : Obligations.StepsComeToTheOperation := by
  have hrun : ∀ (i : Instr) (n : Nat) {s : State}, s.env.resets = [] → latchedRequest s = some (requestOf i) →
      ∃ k, steps k s = drive (statesOf i) n s := by
    intro i n s hquiet hl
    have hlatched : latchedInstr s = some (instrOf (requestOf i)) := by rw [latchedInstr, hl]; rfl
    rw [← statesOf_instrOf i]
    exact exists_steps_eq_drive n hquiet fun _ => hlatched
  refine fun i s hquiet => ⟨fun rest hidle hr => ?_, fun hbusy hl => ?_⟩
  · have htake : takeRequest s = { s with env := { s.env with requests := rest } } := by
      simp only [takeRequest, hr, List.tail_cons]
    have hstep := step_accept hquiet hidle hr
    rw [htake] at hstep
    rw [exec_eq_operate, operate,
      if_pos (show State.seq { s with env := { s.env with requests := rest } } = .idle from hidle)]
    by_cases hinit : (requestOf i).op = .init ∨ s.initDone = true
    · rw [start, if_pos hinit] at hstep
      obtain ⟨k, hk⟩ := hrun i (driveBound { s with env := { s.env with requests := rest } })
        (s := accept (requestOf i) { s with env := { s.env with requests := rest } }) hquiet rfl
      refine ⟨k, ?_⟩
      rw [steps, hstep, if_pos hinit]
      exact hk
    · rw [start, if_neg hinit] at hstep
      exact ⟨0, by rw [steps, hstep, if_neg hinit]⟩
  · rw [exec_eq_operate, operate, if_neg hbusy, if_pos hl]
    exact hrun i _ hquiet hl

/-- Settles O52: the word placed is a request at the head of the port of an idle block after INIT (O51, O57). -/
theorem fetchedWordRunsNext : Obligations.FetchedWordRunsNext := by
  intro s nbits w i hw ready
  have hfetch : s.withFetchWord nbits w =
      { ready with env := { ready.env with requests := i :: ready.env.requests } } := by
    simp only [State.withFetchWord, hw]
    rfl
  rw [hfetch]
  refine ⟨?_, (stepsComeToTheOperation i _ rfl).1 ready.env.requests rfl rfl⟩
  rw [((stepRunsTheRequestedOperation _ rfl).1 i ready.env.requests rfl rfl), if_pos (.inr rfl)]
  rfl

end Sys2Proof
end

section
/-!
SUPPORT. The course of an operation: the states it passes, how many are left at most, and where it waits (R26, R28,
R322).
-/

namespace Sys2Proof

open Machine

section

variable {i : Instr} {s t : State}

/-! ## States of its own -/

/-- A run of i is in a state of i's own, and counts its liveness iterations below ten (R26, R322). -/
structure OnCourse (i : Instr) (s : State) : Prop where
  belongs : s.seq ≠ .idle → belongs (requestOf i).op s.seq = true
  countLe : s.latch.aliveI.toNat ≤ 10
  countLt : (requestOf i).op = .isServoAlive → insideProbe s.seq = true → s.latch.aliveI.toNat < 10

theorem belongs_entryState (op : OpCode) : belongs op (entryState op) = true := by cases op <;> rfl

theorem onCourse_accept (i : Instr) (s : State) : OnCourse i (accept (requestOf i) s) :=
  ⟨fun _ => belongs_entryState _, Nat.zero_le _, fun _ _ => (by decide : (0 : Nat) < 10)⟩

theorem belongs_build_of_admission {op : OpCode} (h : belongs op .admission = true) :
    belongs op (.build .first) = true := by
  cases op <;> cases h <;> rfl

theorem belongs_dirOn_of_build {op : OpCode} {turn : Turn} (h : belongs op (.build turn) = true) :
    belongs op (.exchange turn .dirOn) = true := by
  cases op <;> cases turn <;> cases h <;> rfl

theorem belongs_exchange {op : OpCode} {turn : Turn} {m : ExState} (h : belongs op (.exchange turn m) = true)
    (m' : ExState) : belongs op (.exchange turn m') = true ∧ belongs op (.check turn) = true := by
  cases op <;> cases turn <;> cases h <;> exact ⟨rfl, rfl⟩

theorem op_of_isProbe (h : isProbe i = true) : (requestOf i).op = .isServoAlive := by cases i <;> cases h; rfl

theorem op_ne_of_not_isProbe (h : isProbe i = false) : (requestOf i).op ≠ .isServoAlive := by
  cases i <;> simp [requestOf, isProbe] at h ⊢

/-- Where an EXCHANGE state goes: another of the same EXCHANGE, or the checks after it (R141). -/
theorem exchangeStep_seq {turn : Turn} {m : ExState} (hseq : s.seq = .exchange turn m)
    (h : exchangeStep turn m s = .next t) : (∃ m', t.seq = .exchange turn m') ∨ t.seq = .check turn := by
  rcases exchangeStep_cases h with ⟨-, rfl⟩ | ⟨-, -, rfl⟩ | ⟨-, rfl⟩ | ⟨-, rfl⟩ | ⟨-, -, rfl⟩ | ⟨-, -, rfl⟩ | ⟨-, rfl⟩ |
    ⟨-, -, rfl⟩ | ⟨-, -, -, rfl⟩ | ⟨-, -, -, bytes, rs, -, rfl⟩ | ⟨-, -, bytes, rs, -, rfl⟩ | ⟨-, -, rfl⟩ |
    ⟨-, -, rfl⟩ <;>
    simp [hseq]

/-- Every state of a bus operation goes on to a state of the operation's own. -/
theorem BusMove.onCourse (hs : OnCourse i s) (h : BusMove i s t) : OnCourse i t := by
  have hbelongs := hs.belongs
  cases h
  case refuse | refuseRecord | fail | finish | refuseSample | returnRecord | refuseBlock | probeVerdict =>
    exact ⟨fun hbusy => absurd rfl hbusy, hs.countLe, fun _ hin => by cases hin⟩
  case exchange turn m hseq hstep =>
    have hf := exchangeStep_frame hseq hstep
    have hcount : t.latch.aliveI = s.latch.aliveI := by rw [hf.latch]
    rw [hseq] at hbelongs
    refine ⟨fun _ => ?_, hcount ▸ hs.countLe, fun ho _ => hcount ▸ hs.countLt ho (by rw [hseq]; rfl)⟩
    rcases exchangeStep_seq hseq hstep with ⟨m', hm'⟩ | hcheck
    · rw [hm']; exact (belongs_exchange (hbelongs (by simp)) m').1
    · rw [hcheck]; exact (belongs_exchange (hbelongs (by simp)) m).2
  case enter hprobe _ _ hseq =>
    rw [hseq] at hbelongs
    exact ⟨fun _ => belongs_build_of_admission (hbelongs (by simp)), hs.countLe,
      fun ho => absurd ho (op_ne_of_not_isProbe hprobe)⟩
  case send hseq | sendSample hseq | callWrite hseq =>
    rw [hseq] at hbelongs
    exact ⟨fun _ => belongs_dirOn_of_build (hbelongs (by simp)), hs.countLe,
      fun ho _ => hs.countLt ho (by rw [hseq]; rfl)⟩
  case enterRecord hi _ _ | acceptRecord hi _ _ | keepSample hi _ _ _ | encode hi _ | encoded hi _ =>
    subst hi
    exact ⟨fun _ => rfl, hs.countLe, fun ho => by cases ho⟩
  case decode hreads hseq | decoded hreads hseq =>
    refine ⟨fun _ => ?_, hs.countLe, fun ho _ => hs.countLt ho (by rw [hseq]; rfl)⟩
    rcases hreads with ho | ho <;> rw [ho] <;> rfl
  case enterProbe hprobe _ _ =>
    exact ⟨fun _ => by rw [op_of_isProbe hprobe]; rfl, Nat.zero_le _, fun _ hin => by cases hin⟩
  case probeRead hprobe hcount _ =>
    exact ⟨fun _ => by rw [op_of_isProbe hprobe]; rfl, hs.countLe, fun _ _ => BitVec.lt_def.mp hcount⟩
  case probeStop hprobe _ =>
    exact ⟨fun _ => by rw [op_of_isProbe hprobe]; rfl, hs.countLe, fun _ hin => by cases hin⟩
  case probeBad hprobe hseq =>
    exact ⟨fun _ => by rw [op_of_isProbe hprobe]; rfl, hs.countLe,
      fun ho _ => hs.countLt ho (by rcases hseq with hseq | hseq <;> rw [hseq] <;> rfl)⟩
  case probeGood hprobe hseq =>
    exact ⟨fun _ => by rw [op_of_isProbe hprobe]; rfl, hs.countLe, fun ho _ => hs.countLt ho (by rw [hseq]; rfl)⟩
  case probeValidated hprobe q hq hseq | probeNoted hprobe q hq hseq =>
    exact ⟨fun _ => by rw [op_of_isProbe hprobe]; rcases hq with rfl | rfl <;> rfl, hs.countLe,
      fun ho _ => hs.countLt ho (by rw [hseq]; rfl)⟩
  case probeCounted hprobe hseq =>
    have hlt := hs.countLt (op_of_isProbe hprobe) (by rw [hseq]; rfl)
    have hnext : (s.latch.aliveI + 1).toNat ≤ 10 := by
      rw [BitVec.toNat_add]
      exact (Nat.mod_le _ _).trans hlt
    exact ⟨fun _ => by rw [op_of_isProbe hprobe]; rfl, hnext, fun _ hin => by cases hin⟩

/-- Every state of INIT and SET_BAUD goes on to a state of the operation's own. -/
theorem LinkMove.onCourse (hs : OnCourse i s) (h : LinkMove i s t) : OnCourse i t := by
  cases h
  case refuseRate => exact ⟨fun hbusy => absurd rfl hbusy, hs.countLe, fun _ hin => by cases hin⟩
  case initFinish | baudFinish => exact ⟨fun hbusy => absurd rfl hbusy, hs.countLe, fun _ hin => by cases hin⟩
  case initAdmit modesel hi _ _ | initSetFraming modesel hi _ =>
    subst hi
    exact ⟨fun _ => by cases modesel <;> rfl, hs.countLe, fun ho => by cases ho⟩
  case initDirOn hi _ | initDelay hi _ | initSetBaud hi _ | initDirOff hi _ | baudAdmit hi _ _ | baudProgram hi _ =>
    subst hi
    exact ⟨fun _ => rfl, hs.countLe, fun ho => by cases ho⟩

theorem onCourse_instrOf : OnCourse (instrOf (requestOf i)) s ↔ OnCourse i s := by
  have hop : (requestOf (instrOf (requestOf i))).op = (requestOf i).op := by rw [requestOf_instrOf_requestOf]
  constructor <;> rintro ⟨hbelongs, hle, hlt⟩
  · exact ⟨hop ▸ hbelongs, hle, hop ▸ hlt⟩
  · exact ⟨hop.symm ▸ hbelongs, hle, hop.symm ▸ hlt⟩

/-! ## How many states are left -/

/-- The EXCHANGE states from this one on (R141). -/
def Machine.ExState.left : ExState → Nat
  | .dirOn => 9 | .write => 8 | .dirOff => 7 | .zeroTx => 6 | .checkW => 5 | .zeroRx => 4 | .drain => 3 | .read => 2
  | .checkR => 1

/-- The states an operation has left at most, turns of a drain apart, from a state of an iteration that counts a
iterations before it (R322): a whole iteration is less than 25 of them. -/
def statesLeft (a : Nat) : SeqState → Nat
  | .idle => 0
  | .initAdmit => 7 | .initDirOn => 6 | .initDelay => 5 | .initSetBaud => 4 | .initSetFraming => 3 | .initDirOff => 2
  | .initFinish => 1
  | .baudAdmit => 3 | .baudProgram => 2 | .baudFinish => 1
  | .admission => 253
  | .validateRecord => 24 + 25 * (9 - a)
  | .build .first => 23 + 25 * (9 - a)
  | .exchange .first m => 13 + m.left + 25 * (9 - a)
  | .check .first => 13 + 25 * (9 - a)
  | .encodeBlock => 12 + 25 * (9 - a)
  | .build .second => 11 + 25 * (9 - a)
  | .exchange .second m => 1 + m.left + 25 * (9 - a)
  | .check .second => 1 + 25 * (9 - a)
  | .decodeBlock => 7 + 25 * (9 - a)
  | .validateBlock => 6 + 25 * (9 - a)
  | .probeCompare => 5 + 25 * (9 - a)
  | .probeFail => 4 + 25 * (9 - a)
  | .probeNext => 3 + 25 * (9 - a)
  | .probeLoop => 2 + 25 * (10 - a)
  | .probeFinish => 1

/-- What every state lowers: the states left, and the answers of Bus.read that a drain has still to take (R142). -/
def workLeft (s : State) : Nat := statesLeft s.latch.aliveI.toNat s.seq + s.env.reads.length

theorem statesLeft_le (a : Nat) (q : SeqState) : statesLeft a q ≤ 253 := by
  have hm : ∀ m : ExState, m.left ≤ 9 := by intro m; cases m <;> decide
  cases q
  case build turn => cases turn <;> simp only [statesLeft] <;> omega
  case exchange turn m => cases turn <;> simp only [statesLeft] <;> have := hm m <;> omega
  case check turn => cases turn <;> simp only [statesLeft] <;> omega
  all_goals simp only [statesLeft]; omega

/-- A run's fuel is more than its work (notes/assumptions/16.md). -/
theorem workLeft_lt_driveBound (s : State) : workLeft s < driveBound s := by
  have := statesLeft_le s.latch.aliveI.toNat s.seq
  simp only [workLeft, driveBound]
  omega

/-- The states left inside one EXCHANGE and after it. -/
theorem statesLeft_exchange (a : Nat) (turn : Turn) :
    ∃ after, statesLeft a (.check turn) = after ∧ ∀ m, statesLeft a (.exchange turn m) = after + m.left := by
  cases turn
  · exact ⟨13 + 25 * (9 - a), rfl, fun m => by simp only [statesLeft]; omega⟩
  · exact ⟨1 + 25 * (9 - a), rfl, fun m => by simp only [statesLeft]; omega⟩

/-- An EXCHANGE goes from state to state, or takes an answer in its drain (R141, R142). -/
theorem exchangeStep_descends {turn : Turn} {m : ExState} (a : Nat) (hseq : s.seq = .exchange turn m)
    (h : exchangeStep turn m s = .next t) :
    statesLeft a t.seq < statesLeft a s.seq ∨ t.seq = s.seq ∧ t.env.reads.length < s.env.reads.length := by
  obtain ⟨after, hcheck, hexchange⟩ := statesLeft_exchange a turn
  rcases exchangeStep_cases h with ⟨rfl, rfl⟩ | ⟨rfl, -, rfl⟩ | ⟨rfl, rfl⟩ | ⟨rfl, rfl⟩ | ⟨rfl, -, rfl⟩ |
    ⟨rfl, -, rfl⟩ | ⟨rfl, rfl⟩ | ⟨rfl, -, rfl⟩ | ⟨rfl, -, -, rfl⟩ | ⟨rfl, -, -, bytes, rs, hr, rfl⟩ |
    ⟨rfl, -, bytes, rs, hr, rfl⟩ | ⟨rfl, -, rfl⟩ | ⟨rfl, -, rfl⟩ <;>
    simp [hseq, hexchange, hcheck, Machine.ExState.left]
  next => simp [hr]

theorem exchangeStep_lowers {turn : Turn} {m : ExState} (hseq : s.seq = .exchange turn m)
    (h : exchangeStep turn m s = .next t) : workLeft t < workLeft s := by
  have hf := exchangeStep_frame hseq h
  have hcount : t.latch.aliveI = s.latch.aliveI := by rw [hf.latch]
  have hreads := hf.env.reads.length_le
  have hdown := exchangeStep_descends s.latch.aliveI.toNat hseq h
  simp only [workLeft, hcount]
  rcases hdown with hlt | ⟨hq, hlt⟩
  · omega
  · rw [hq]; omega

/-- Outside EXCHANGE no answer of the transport is taken: fewer states left is less work. -/
theorem workLeft_lt_of_statesLeft (hreads : t.env.reads = s.env.reads)
    (h : statesLeft t.latch.aliveI.toNat t.seq < statesLeft s.latch.aliveI.toNat s.seq) : workLeft t < workLeft s := by
  simp only [workLeft, hreads]
  omega

/-- Every state of a bus operation lowers the work left. -/
theorem BusMove.lowers (hs : OnCourse i s) (h : BusMove i s t) : workLeft t < workLeft s := by
  have hcount := hs.countLe
  cases h
  case exchange hseq hstep => exact exchangeStep_lowers hseq hstep
  all_goals refine workLeft_lt_of_statesLeft rfl ?_
  case fail turn _ hseq | finish turn _ hseq => cases turn <;> simp [hseq, statesLeft]
  case probeBad hseq => rcases hseq with hseq | hseq <;> simp [hseq, statesLeft]
  case probeValidated q hq hseq | probeNoted q hq hseq =>
    rcases hq with rfl | rfl <;> simp only [goto_seq, goto_latch, validate, hseq, statesLeft] <;> omega
  case probeRead hlt hseq =>
    have hlt := BitVec.lt_def.mp hlt
    change _ < 10 at hlt
    simp only [goto_seq, goto_latch, hseq, statesLeft]
    omega
  case probeCounted hprobe hseq =>
    -- the next iteration's states are among those left
    have hlt := hs.countLt (op_of_isProbe hprobe) (by rw [hseq]; rfl)
    have hnext : (s.latch.aliveI + 1).toNat = s.latch.aliveI.toNat + 1 := by
      rw [BitVec.toNat_add]
      exact Nat.mod_eq_of_lt (by simp; omega)
    simp only [goto_seq, goto_latch, hseq, statesLeft, hnext]
    omega
  case enter hseq | enterProbe hseq | enterRecord hseq | probeStop hseq =>
    simp only [goto_seq, hseq, statesLeft]
    omega
  all_goals simp [*, statesLeft, Machine.ExState.left]

/-- Every state of INIT and SET_BAUD lowers the work left. -/
theorem LinkMove.lowers (h : LinkMove i s t) : workLeft t < workLeft s := by
  cases h
  all_goals refine workLeft_lt_of_statesLeft rfl ?_
  case refuseRate hseq => rcases hseq with hseq | hseq <;> simp [hseq, statesLeft]
  case initAdmit modesel hi hw hseq | initSetFraming modesel hi hseq => cases modesel <;> simp [hseq, statesLeft]
  all_goals simp [*, statesLeft]

theorem statesOf_onCourse (hs : OnCourse i s) (h : statesOf i s = .next t) : OnCourse i t := by
  rw [← onCourse_instrOf] at hs ⊢
  cases hbus : usesBus i with
  | true => exact (busMove_of_statesOf hbus h).onCourse hs
  | false =>
    rw [onCourse_instrOf] at hs ⊢
    exact (linkMove_of_statesOf hbus h).onCourse hs

theorem statesOf_lowers (hs : OnCourse i s) (h : statesOf i s = .next t) : workLeft t < workLeft s := by
  cases hbus : usesBus i with
  | true => exact (busMove_of_statesOf hbus h).lowers (onCourse_instrOf.mpr hs)
  | false => exact (linkMove_of_statesOf hbus h).lowers

/-! ## Where an operation waits -/

/-- In an EXCHANGE state of its own an operation does what EXCHANGE does (R141). -/
theorem statesOf_exchange_of_belongs {turn : Turn} {m : ExState} (hseq : s.seq = .exchange turn m)
    (h : Machine.belongs (requestOf i).op s.seq = true) : statesOf i s = exchangeStep turn m s := by
  rw [hseq] at h
  cases turn with
  | first =>
    have hbus : usesBus i = true := by cases i <;> simp [requestOf, Machine.belongs, usesBus] at h ⊢
    exact statesOf_exchange_first hbus hseq
  | second =>
    have hcommand : (commandBytes State.reset i .second).isSome = true := by
      cases i <;> simp [requestOf, Machine.belongs, commandBytes] at h ⊢
    exact statesOf_exchange_second hcommand hseq

/-- An EXCHANGE state whose lengths fit the buffers waits for its blocking read, or moves on (R28, R140). -/
theorem exchangeStep_answers {turn : Turn} {m : ExState} (hseq : s.seq = .exchange turn m)
    (hN : exLength s.latch.exN = true) (hM : exLength s.latch.exM = true) :
    (s.waits = true ∧ exchangeStep turn m s = .wait) ∨ (s.waits = false ∧ ∃ t, exchangeStep turn m s = .next t) := by
  cases m
  case drain =>
    cases hdrain : s.cfgDrain with
    | off => simp [State.waits, hseq, hdrain, exchangeStep, exDrain]
    | loop =>
      by_cases hk : (takeAvail s.env).1 = 0
      · simp [State.waits, hseq, hdrain, hk, exchangeStep, exDrain]
      · cases hr : s.env.reads <;> simp [State.waits, hseq, hdrain, hk, hr, exchangeStep, exDrain]
  case read => cases hr : s.env.reads <;> simp [State.waits, hseq, hr, exchangeStep, exRead, hM]
  case write => simp [State.waits, hseq, exchangeStep, exWrite, hN]
  all_goals simp [State.waits, hseq, exchangeStep]

/-- Outside EXCHANGE an operation waits for the end of its Delay, or moves on (R28). -/
theorem statesOf_answers (h : Machine.belongs (requestOf i).op s.seq = true)
    (hno : ∀ turn m, s.seq ≠ .exchange turn m) :
    (s.waits = true ∧ statesOf i s = .wait) ∨ (s.waits = false ∧ ∃ t, statesOf i s = .next t) := by
  rw [← statesOf_instrOf]
  generalize requestOf i = r at h ⊢
  obtain ⟨op⟩ := r
  cases op
  case init =>
    by_cases hd : s.env.delays = 0 <;>
      (simp only [instrOf, statesOf, initStates] at h ⊢; split <;> simp_all [Machine.belongs, State.waits])
  all_goals
    simp only [instrOf, statesOf, setBaudStates, setPosStates, setPosWeakStates, setPosWeakKeepStates,
      readParamStates, writeParamStates, readEepromStates, readEepromRawStates, writeEepromStates, isServoAliveStates,
      getIdStates, setIdStates] at h ⊢
    split <;> simp_all [Machine.belongs, State.waits]

end

end Sys2Proof
end

section
/-!
SUPPORT. The invariant of a busy block, by the operation in progress, and every state of every operation keeping it
(R20 to R35, R140 to R144, R340).
-/

namespace Sys2Proof

open Machine

/-! ## The invariant of a busy block -/

/-- `State.Inv` of a block outside IDLE, with the operation in progress named: i is the operation of its own request
tuple (R40, R113). -/
structure BusyInv (i : Instr) (s : State) : Prop where
  request : latchedRequest s = some (requestOf i)
  canonical : instrOf (requestOf i) = i
  ready : (requestOf i).op = .init ∨ s.initDone = true
  txWf : s.txbuf.wf = true
  rxWf : s.rxbuf.wf = true
  dirExact : s.dir = dirWhile (requestOf i).modesel s.seq
  txQuiet : txLoaded s = false → s.txbuf = memZero
  txCommand : ∀ t bytes, loadedTurn s = some t → commandBytes s i t = some bytes →
    memReadList s.txbuf 0 bytes.length = bytes
  baudProgrammed : s.initDone = true ↔ s.cfgBaud ≠ .none
  drainFixed : s.cfgDrain = s.params.drain
  valuesClear : s.res.ret ≠ .ok → s.res.outValue = 0 ∧ s.res.outAlive = false ∧ s.res.outRec = {}
  belongs : belongs (requestOf i).op s.seq = true
  windowAsked : (s.seq = .initDirOn ∨ s.seq = .initDelay ∨ s.seq = .initDirOff) → (requestOf i).modesel = true
  idChecked : s.seq = .validateRecord → idInRange (requestOf i).id = true
  operandsChecked : admitted s.seq = true → i.wellFormed = true
  lengths : ∀ t m, s.seq = .exchange t m → s.latch.exN.toNat = (exLengths (requestOf i).op t).1 ∧
    s.latch.exM.toNat = (exLengths (requestOf i).op t).2
  fullWrite : ∀ t, (s.seq = .exchange t .zeroRx ∨ s.seq = .exchange t .drain ∨ s.seq = .exchange t .read ∨
    s.seq = .exchange t .checkR) → s.latch.exW = s.latch.exN
  exchangeResult : ∀ t, s.seq = .check t →
    s.latch.exRet = .ok ∨ ((s.latch.exRet = .writeError ∨ s.latch.exRet = .readError) ∧ s.rxbuf = memZero)
  sampleFits : (s.seq = .build .second ∨ ∃ m, s.seq = .exchange .second m) → (requestOf i).op = .setPosWeakKeep →
    s.latch.keepPos.toNat ≤ 16383
  probeCount : s.latch.aliveI.toNat ≤ 10 ∧
    ((requestOf i).op = .isServoAlive → insideProbe s.seq = true → s.latch.aliveI.toNat < 10)

section

variable {i : Instr} {s t : State}

/-- The operands the latches of a request hold (R27). -/
theorem latch_of_request {r : Request} (h : latchedRequest s = some r) :
    s.latch.op = some r.op ∧ s.latch.opId = r.id ∧ s.latch.opModesel = r.modesel := by
  obtain ⟨op, hop, rfl⟩ := Option.map_eq_some_iff.mp h
  exact ⟨hop, rfl, rfl⟩

theorem latchedInstr_of_request {r : Request} (h : latchedRequest s = some r) : latchedInstr s = some (instrOf r) := by
  rw [latchedInstr, h]
  rfl

theorem BusyInv.latchedInstr_eq (hs : BusyInv i s) : latchedInstr s = some i := by
  rw [latchedInstr_of_request hs.request, hs.canonical]

theorem BusyInv.course (hs : BusyInv i s) : OnCourse i s := ⟨fun _ => hs.belongs, hs.probeCount.1, hs.probeCount.2⟩

theorem BusyInv.inv (hs : BusyInv i s) : s.Inv := by
  obtain ⟨hop, hid, hmode⟩ := latch_of_request hs.request
  have hinstr : ∀ j, latchedInstr s = some j → j = i := fun j hj =>
    Option.some.inj (hj.symm.trans hs.latchedInstr_eq)
  have hrequest : ∀ r, latchedRequest s = some r → r = requestOf i := fun r hr =>
    Option.some.inj (hr.symm.trans hs.request)
  have hsame : ∀ op, s.latch.op = some op → (requestOf i).op = op := fun op ho =>
    Option.some.inj (hop.symm.trans ho)
  exact {
    txWf := hs.txWf, rxWf := hs.rxWf
    dirExact := by rw [hmode]; exact hs.dirExact
    txQuiet := hs.txQuiet
    txCommand := fun t j bytes ht hj hb => hs.txCommand t bytes ht (hinstr j hj ▸ hb)
    baudProgrammed := hs.baudProgrammed, drainFixed := hs.drainFixed, valuesClear := hs.valuesClear
    inProgress := fun _ => ⟨requestOf i, hs.request, by rw [hs.canonical], hs.belongs, hs.ready⟩
    windowAsked := by rw [hmode]; exact hs.windowAsked
    idChecked := by rw [hid]; exact hs.idChecked
    operandsChecked := fun ha j hj => hinstr j hj ▸ hs.operandsChecked ha
    lengths := fun t m r ht hr => hrequest r hr ▸ hs.lengths t m ht
    fullWrite := hs.fullWrite, exchangeResult := hs.exchangeResult
    sampleFits := fun hseq ho => hs.sampleFits hseq (hsame _ ho)
    probeCount := ⟨hs.probeCount.1, fun ho => hs.probeCount.2 (hsame _ ho)⟩ }

/-- A block that meets the invariant outside IDLE has an operation in progress. -/
theorem exists_busyInv (hs : s.Inv) (hbusy : s.seq ≠ .idle) : ∃ i, BusyInv i s := by
  obtain ⟨r, hr, htuple, hbelongs, hready⟩ := hs.inProgress hbusy
  obtain ⟨hop, hid, hmode⟩ := latch_of_request hr
  have hinstr := latchedInstr_of_request hr
  refine ⟨instrOf r, ?_⟩
  exact {
    request := by rw [htuple]; exact hr
    canonical := by rw [htuple]
    ready := by rw [htuple]; exact hready
    txWf := hs.txWf, rxWf := hs.rxWf
    dirExact := by rw [htuple, ← hmode]; exact hs.dirExact
    txQuiet := hs.txQuiet
    txCommand := fun t bytes ht => hs.txCommand t _ bytes ht hinstr
    baudProgrammed := hs.baudProgrammed, drainFixed := hs.drainFixed, valuesClear := hs.valuesClear
    belongs := by rw [htuple]; exact hbelongs
    windowAsked := by rw [htuple, ← hmode]; exact hs.windowAsked
    idChecked := by rw [htuple, ← hid]; exact hs.idChecked
    operandsChecked := fun ha => hs.operandsChecked ha _ hinstr
    lengths := by rw [htuple]; exact fun t m ht => hs.lengths t m r ht hr
    fullWrite := hs.fullWrite, exchangeResult := hs.exchangeResult
    sampleFits := by rw [htuple]; exact fun hseq ho => hs.sampleFits hseq (ho ▸ hop)
    probeCount := by rw [htuple]; exact ⟨hs.probeCount.1, fun ho => hs.probeCount.2 (ho ▸ hop)⟩ }

/-! ## IDLE -/

/-- The invariant in IDLE, where only the registers and the buffers have something to say. -/
theorem inv_of_idle (hidle : s.seq = .idle) (hdir : s.dir = false) (htx : s.txbuf = memZero) (hrx : s.rxbuf.wf = true)
    (hbaud : s.initDone = true ↔ s.cfgBaud ≠ .none) (hdrain : s.cfgDrain = s.params.drain)
    (hvalues : s.res.ret ≠ .ok → s.res.outValue = 0 ∧ s.res.outAlive = false ∧ s.res.outRec = {})
    (hcount : s.latch.aliveI.toNat ≤ 10) : s.Inv where
  txWf := by rw [htx]; rfl
  rxWf := hrx
  dirExact := by rw [hidle, hdir]; rfl
  txQuiet := fun _ => htx
  txCommand := fun t i bytes h => by simp [loadedTurn, hidle] at h
  baudProgrammed := hbaud
  drainFixed := hdrain
  valuesClear := hvalues
  inProgress := fun h => absurd hidle h
  windowAsked := by simp [hidle]
  idChecked := by simp [hidle]
  operandsChecked := by simp [hidle, admitted]
  lengths := by simp [hidle]
  fullWrite := by simp [hidle]
  exchangeResult := by simp [hidle]
  sampleFits := by simp [hidle]
  probeCount := ⟨hcount, by simp [hidle, insideProbe]⟩

/-- DIR is low and TXBUF clear in IDLE. -/
theorem idle_at_rest (hs : s.Inv) (hidle : s.seq = .idle) : s.dir = false ∧ s.txbuf = memZero :=
  ⟨by rw [hs.dirExact, hidle]; rfl, hs.txQuiet (by simp [txLoaded, loadedTurn, hidle])⟩

/-- The invariant says nothing of the outside. -/
theorem inv_congr_env (hs : s.Inv) (e : Env) : State.Inv { s with env := e } := { hs with }

theorem inv_afterReset (p : Params) (e : Env) : (State.afterReset p e).Inv :=
  inv_of_idle rfl rfl rfl rfl (by simp [State.afterReset]) rfl (fun _ => ⟨rfl, rfl, rfl⟩) (Nat.zero_le _)

/-- Settles O40: the reset state is in IDLE with clear buffers and registers (`inv_of_idle`). -/
theorem resetMeetsTheInvariant : Obligations.ResetMeetsTheInvariant :=
  ⟨inv_afterReset defaultParams {}, inv_afterReset⟩

/-! ## States at rest -/

/-- The states outside IDLE in which DIR is low and no EXCHANGE runs or has just returned. -/
def resting : SeqState → Bool
  | .idle => false
  | .exchange _ _ => false
  | .check _ => false
  | .initDirOn => false
  | .initDelay => false
  | .initSetBaud => false
  | .initSetFraming => false
  | .initDirOff => false
  | _ => true

/-- The invariant of a busy block at rest, where no EXCHANGE and no startup window has anything to say. -/
theorem busyInv_of_resting (hrest : resting s.seq = true) (hrequest : latchedRequest s = some (requestOf i))
    (hcanonical : instrOf (requestOf i) = i) (hready : (requestOf i).op = .init ∨ s.initDone = true)
    (hdir : s.dir = false) (htx : s.txbuf = memZero) (hrx : s.rxbuf.wf = true)
    (hbaud : s.initDone = true ↔ s.cfgBaud ≠ .none) (hdrain : s.cfgDrain = s.params.drain)
    (hvalues : s.res.ret ≠ .ok → s.res.outValue = 0 ∧ s.res.outAlive = false ∧ s.res.outRec = {})
    (hcourse : OnCourse i s) (hloaded : loadedTurn s = none)
    (hid : s.seq = .validateRecord → idInRange (requestOf i).id = true)
    (hadmitted : admitted s.seq = true → i.wellFormed = true)
    (hsample : s.seq = .build .second → (requestOf i).op = .setPosWeakKeep → s.latch.keepPos.toNat ≤ 16383) :
    BusyInv i s where
  request := hrequest
  canonical := hcanonical
  ready := hready
  txWf := by rw [htx]; rfl
  rxWf := hrx
  dirExact := by
    rw [hdir]
    revert hrest
    cases s.seq <;> simp [resting, dirWhile]
  txQuiet := fun _ => htx
  txCommand := fun t bytes ht => by simp [hloaded] at ht
  baudProgrammed := hbaud
  drainFixed := hdrain
  valuesClear := hvalues
  belongs := hcourse.belongs (by intro h; simp [h, resting] at hrest)
  windowAsked := by rintro (h | h | h) <;> simp [h, resting] at hrest
  idChecked := hid
  operandsChecked := hadmitted
  lengths := fun t m h => by simp [h, resting] at hrest
  fullWrite := fun t => by rintro (h | h | h | h) <;> simp [h, resting] at hrest
  exchangeResult := fun t h => by simp [h, resting] at hrest
  sampleFits := by
    rintro (h | ⟨m, h⟩)
    · exact hsample h
    · simp [h, resting] at hrest
  probeCount := ⟨hcourse.countLe, hcourse.countLt⟩

theorem entryState_cases (op : OpCode) :
    entryState op = .initAdmit ∨ entryState op = .baudAdmit ∨ entryState op = .admission := by
  cases op <;> simp [entryState]

/-- A request taken (R26): the first state of an operation, its latches set. -/
theorem busyInv_accept (hs : s.Inv) (hidle : s.seq = .idle) (i : Instr)
    (hready : (requestOf i).op = .init ∨ s.initDone = true) :
    BusyInv (instrOf (requestOf i)) (accept (requestOf i) s) := by
  obtain ⟨hdir, htx⟩ := idle_at_rest hs hidle
  have htuple := requestOf_instrOf_requestOf i
  refine busyInv_of_resting ?rest (by rw [htuple]; rfl) (by rw [htuple]) (by rw [htuple]; exact hready) hdir htx hs.rxWf
    hs.baudProgrammed hs.drainFixed hs.valuesClear (onCourse_instrOf.mpr (onCourse_accept i s)) ?loaded ?id
    ?admitted ?sample
  all_goals
    simp only [loadedTurn, accept_seq]
    rcases entryState_cases (requestOf i).op with h | h | h <;> simp [h, resting, admitted]

/-! ## Bookkeeping -/

/-- t is s but for STATE, the latches that are no operands, and INVALID_MASK. -/
structure Bookkeeping (s t : State) : Prop where
  request : latchedRequest t = latchedRequest s
  txbuf : t.txbuf = s.txbuf
  rxbuf : t.rxbuf = s.rxbuf
  dir : t.dir = s.dir
  cfgBaud : t.cfgBaud = s.cfgBaud
  cfgDrain : t.cfgDrain = s.cfgDrain
  initDone : t.initDone = s.initDone
  params : t.params = s.params
  values : t.res = { s.res with invalidMask := t.res.invalidMask }

/-- From a state at rest, or from the checks after an EXCHANGE, to a state at rest. -/
theorem BusyInv.rests (hs : BusyInv i s) (h : Bookkeeping s t)
    (hdir : dirWhile (requestOf i).modesel s.seq = false) (hload : txLoaded s = false) (hrest : resting t.seq = true)
    (hcourse : OnCourse i t) (hloaded : loadedTurn t = none)
    (hid : t.seq = .validateRecord → idInRange (requestOf i).id = true)
    (hadmitted : admitted t.seq = true → i.wellFormed = true)
    (hsample : t.seq = .build .second → (requestOf i).op = .setPosWeakKeep → t.latch.keepPos.toNat ≤ 16383) :
    BusyInv i t :=
  busyInv_of_resting hrest (h.request.trans hs.request) hs.canonical (by rw [h.initDone]; exact hs.ready)
    (by rw [h.dir, hs.dirExact, hdir]) (by rw [h.txbuf, hs.txQuiet hload]) (by rw [h.rxbuf]; exact hs.rxWf)
    (by rw [h.initDone, h.cfgBaud]; exact hs.baudProgrammed) (by rw [h.cfgDrain, h.params]; exact hs.drainFixed)
    (by rw [h.values]; exact hs.valuesClear) hcourse hloaded hid hadmitted hsample

/-- The end of an operation (R343, R344), from a state with DIR low and TXBUF clear. -/
theorem BusyInv.ends (hs : BusyInv i s) (hdir : dirWhile (requestOf i).modesel s.seq = false)
    (hload : txLoaded s = false) (hidle : t.seq = .idle) (htx : t.txbuf = s.txbuf) (hrx : t.rxbuf = s.rxbuf)
    (htdir : t.dir = s.dir) (hbaud : t.initDone = true ↔ t.cfgBaud ≠ .none) (hdrain : t.cfgDrain = t.params.drain)
    (hvalues : t.res.ret ≠ .ok → t.res.outValue = 0 ∧ t.res.outAlive = false ∧ t.res.outRec = {})
    (hcount : t.latch.aliveI = s.latch.aliveI) : t.Inv :=
  inv_of_idle hidle (by rw [htdir, hs.dirExact, hdir]) (by rw [htx, hs.txQuiet hload]) (by rw [hrx]; exact hs.rxWf)
    hbaud hdrain hvalues (by rw [hcount]; exact hs.probeCount.1)

/-! ## The exchange -/

theorem exLengths_of_belongs {op : OpCode} {turn : Turn} {m : ExState} (h : belongs op (.exchange turn m) = true) :
    (1 ≤ (exLengths op turn).1 ∧ (exLengths op turn).1 ≤ bufLen) ∧
      1 ≤ (exLengths op turn).2 ∧ (exLengths op turn).2 ≤ bufLen := by
  cases op <;> cases turn <;> cases h <;> decide

/-- The exchange states of an operation call EXCHANGE with lengths inside the buffers (R140). -/
theorem BusyInv.exLengths_ok (hs : BusyInv i s) {turn : Turn} {m : ExState} (hseq : s.seq = .exchange turn m) :
    exLength s.latch.exN = true ∧ exLength s.latch.exM = true := by
  obtain ⟨hn, hm⟩ := exLengths_of_belongs (hseq ▸ hs.belongs)
  obtain ⟨hN, hM⟩ := hs.lengths turn m hseq
  exact ⟨exLength_iff.mpr (hN ▸ hn), exLength_iff.mpr (hM ▸ hm)⟩

/-- From one state of an EXCHANGE to another of the same one. -/
theorem BusyInv.exchanges (hs : BusyInv i s) {turn : Turn} {m m' : ExState} (hseq : s.seq = .exchange turn m)
    (h : ExchangeFrame s t) (hcourse : OnCourse i t) (hseq' : t.seq = .exchange turn m')
    (htx : t.txbuf.wf = true) (hrx : t.rxbuf.wf = true)
    (hdir : t.dir = dirWhile (requestOf i).modesel t.seq) (hquiet : txLoaded t = false → t.txbuf = memZero)
    (hcommand : ∀ t' bytes, loadedTurn t = some t' → commandBytes t i t' = some bytes →
      memReadList t.txbuf 0 bytes.length = bytes)
    (hwrite : (m' = .zeroRx ∨ m' = .drain ∨ m' = .read ∨ m' = .checkR) → t.latch.exW = s.latch.exN) :
    BusyInv i t := by
  have hN : t.latch.exN = s.latch.exN := by rw [h.latch]
  have hM : t.latch.exM = s.latch.exM := by rw [h.latch]
  have hkeep : t.latch.keepPos = s.latch.keepPos := by rw [h.latch]
  exact {
    request := (h.busFrame (i := i)).request.trans hs.request
    canonical := hs.canonical
    ready := by rw [h.initDone]; exact hs.ready
    txWf := htx, rxWf := hrx, dirExact := hdir, txQuiet := hquiet, txCommand := hcommand
    baudProgrammed := by rw [h.initDone, h.cfgBaud]; exact hs.baudProgrammed
    drainFixed := by rw [h.cfgDrain, h.params]; exact hs.drainFixed
    valuesClear := by rw [h.res]; exact hs.valuesClear
    belongs := hcourse.belongs (by simp [hseq'])
    windowAsked := by simp [hseq']
    idChecked := by simp [hseq']
    operandsChecked := fun _ => hs.operandsChecked (by rw [hseq]; rfl)
    lengths := fun t' m'' ht => by
      obtain ⟨rfl, -⟩ : turn = t' ∧ m' = m'' := by simpa [hseq'] using ht
      rw [hN, hM]
      exact hs.lengths turn m hseq
    fullWrite := fun t' ht => by
      rw [hN]
      exact hwrite (by rcases ht with ht | ht | ht | ht <;> simp [hseq'] at ht <;> simp [ht])
    exchangeResult := by simp [hseq']
    sampleFits := fun ht ho => by
      rw [hkeep]
      refine hs.sampleFits (.inr ⟨m, ?_⟩) ho
      rcases ht with ht | ⟨m'', ht⟩ <;> rw [hseq'] at ht <;> simp_all
    probeCount := ⟨hcourse.countLe, hcourse.countLt⟩ }

/-- EXCHANGE returns (R143). -/
theorem BusyInv.returns (hs : BusyInv i s) {turn : Turn} {m : ExState} (hseq : s.seq = .exchange turn m)
    (h : ExchangeFrame s t) (hcourse : OnCourse i t) (hseq' : t.seq = .check turn)
    (hsdir : dirWhile (requestOf i).modesel s.seq = false)
    (hdir : t.dir = s.dir) (hload : txLoaded s = false) (htx : t.txbuf = s.txbuf)
    (hrx : t.rxbuf = s.rxbuf ∨ t.rxbuf = memZero)
    (hret : t.latch.exRet = .ok ∨ ((t.latch.exRet = .writeError ∨ t.latch.exRet = .readError) ∧ t.rxbuf = memZero)) :
    BusyInv i t := by
  have hkeep : t.latch.keepPos = s.latch.keepPos := by rw [h.latch]
  have hquiet := hs.txQuiet hload
  exact {
    request := (h.busFrame (i := i)).request.trans hs.request
    canonical := hs.canonical
    ready := by rw [h.initDone]; exact hs.ready
    txWf := by rw [htx]; exact hs.txWf
    rxWf := by
      rcases hrx with hrx | hrx <;> rw [hrx]
      · exact hs.rxWf
      · rfl
    dirExact := by rw [hdir, hs.dirExact, hsdir, hseq']; rfl
    txQuiet := fun _ => htx.trans hquiet
    txCommand := by simp [loadedTurn, hseq']
    baudProgrammed := by rw [h.initDone, h.cfgBaud]; exact hs.baudProgrammed
    drainFixed := by rw [h.cfgDrain, h.params]; exact hs.drainFixed
    valuesClear := by rw [h.res]; exact hs.valuesClear
    belongs := hcourse.belongs (by simp [hseq'])
    windowAsked := by simp [hseq']
    idChecked := by simp [hseq']
    operandsChecked := fun _ => hs.operandsChecked (by rw [hseq]; rfl)
    lengths := by simp [hseq']
    fullWrite := by simp [hseq']
    exchangeResult := fun _ _ => hret
    sampleFits := by simp [hseq']
    probeCount := ⟨hcourse.countLe, hcourse.countLt⟩ }

end

end Sys2Proof
end

section
/-!
SUPPORT. Every step keeps the invariant, so no step faults and none is refused after INIT (R28, R340, R342).
-/

namespace Sys2Proof

open Machine

section

variable {i : Instr} {s t : State}

/-! ## Loading a command -/

/-- The command of an exchange is decided by the configuration, the sample and RXBUF (R113, R183, R293). -/
theorem commandBytes_congr (hparams : t.params = s.params) (hkeep : t.latch.keepPos = s.latch.keepPos)
    (hrx : t.rxbuf = s.rxbuf) (turn : Turn) : commandBytes t i turn = commandBytes s i turn := by
  have hblock : rxBlock t = rxBlock s := by rw [rxBlock, hrx, rxBlock]
  cases turn <;> cases i <;> simp only [commandBytes, hparams, hkeep, hblock]

/-- EXCHANGE called with the operation's command in TXBUF (R101, R140). -/
theorem BusyInv.loads (hs : BusyInv i s) {turn : Turn} {n m : Nat} {txbuf : Memory}
    (hdir : dirWhile (requestOf i).modesel s.seq = false)
    (hcourse : OnCourse i (callExchange turn n m { s with txbuf := txbuf }))
    (hlengths : exLengths (requestOf i).op turn = (n, m)) (htx : txbuf.wf = true)
    (hcommand : ∀ bytes, commandBytes s i turn = some bytes → memReadList txbuf 0 bytes.length = bytes)
    (hadmitted : admitted s.seq = true) (hsample : turn = .second → s.seq = .build .second) :
    BusyInv i (callExchange turn n m { s with txbuf := txbuf }) := by
  have hbelongs := hcourse.belongs (by simp)
  obtain ⟨hN, hM⟩ := exLengths_of_belongs hbelongs
  rw [hlengths] at hN hM
  have hfits : ∀ k, k ≤ bufLen → (BitVec.ofNat 7 k).toNat = k := fun k hk =>
    Nat.mod_eq_of_lt (Nat.lt_of_le_of_lt hk (by decide))
  exact {
    request := hs.request, canonical := hs.canonical, ready := hs.ready
    txWf := htx, rxWf := hs.rxWf
    dirExact := hs.dirExact.trans hdir
    txQuiet := fun h => by simp [txLoaded, loadedTurn] at h
    txCommand := fun t' bytes ht hb => by
      obtain rfl : turn = t' := Option.some.inj ht
      exact hcommand bytes ((commandBytes_congr (s := s) rfl rfl rfl _).symm.trans hb)
    baudProgrammed := hs.baudProgrammed, drainFixed := hs.drainFixed, valuesClear := hs.valuesClear
    belongs := hbelongs
    windowAsked := by simp
    idChecked := by simp
    operandsChecked := fun _ => hs.operandsChecked hadmitted
    lengths := fun t' m' ht => by
      obtain ⟨rfl, -⟩ : turn = t' ∧ ExState.dirOn = m' := by simpa using ht
      rw [hlengths]
      exact ⟨hfits n hN.2, hfits m hM.2⟩
    fullWrite := by simp
    exchangeResult := by simp
    sampleFits := fun ht ho => hs.sampleFits (.inl (hsample (by simpa [eq_comm] using ht))) ho
    probeCount := ⟨hcourse.countLe, hcourse.countLt⟩ }

/-- A frame sent from a quiet TXBUF is what the exchange reads there. -/
theorem memReadList_frame (f : Frame) (hfits : (encodeFrame f).length ≤ bufLen) :
    (memWriteList memZero 0 (encodeFrame f)).wf = true ∧
      memReadList (memWriteList memZero 0 (encodeFrame f)) 0 (encodeFrame f).length = encodeFrame f :=
  ⟨memWriteList_wf memZero_wf (by omega), memReadList_memWriteList memZero_wf (by omega)⟩

/-! ## One state of an exchange -/

/-- The EXCHANGE states after EX_ZERO_TX, with TXBUF clear and DIR low (R141). -/
def ExState.pastWrite : ExState → Bool
  | .dirOn => false
  | .write => false
  | .dirOff => false
  | .zeroTx => false
  | _ => true

theorem at_rest_past_write {u : State} {turn : Turn} {m : ExState} (hseq : u.seq = .exchange turn m)
    (hm : ExState.pastWrite m = true) (modesel : Bool) :
    dirWhile modesel u.seq = false ∧ txLoaded u = false ∧ loadedTurn u = none := by
  cases m <;> cases hm <;> simp [dirWhile, txLoaded, loadedTurn, hseq]

/-- From one state of an EXCHANGE to another, both after EX_ZERO_TX. -/
theorem BusyInv.passes (hs : BusyInv i s) {turn : Turn} {m m' : ExState} (hseq : s.seq = .exchange turn m)
    (h : ExchangeFrame s t) (hcourse : OnCourse i t) (hseq' : t.seq = .exchange turn m')
    (hm : ExState.pastWrite m = true)
    (hm' : ExState.pastWrite m' = true) (htx : t.txbuf = s.txbuf) (hrx : t.rxbuf.wf = true) (hdir : t.dir = s.dir)
    (hfull : t.latch.exW = s.latch.exN) : BusyInv i t := by
  obtain ⟨hsdir, hsload, -⟩ := at_rest_past_write hseq hm (requestOf i).modesel
  obtain ⟨htdir, -, htload⟩ := at_rest_past_write hseq' hm' (requestOf i).modesel
  have hquiet := hs.txQuiet hsload
  exact hs.exchanges hseq h hcourse hseq' (by rw [htx]; exact hs.txWf) hrx (by rw [hdir, hs.dirExact, hsdir, htdir])
    (fun _ => htx.trans hquiet) (fun t' bytes ht => by simp [htload] at ht) fun _ => hfull

/-- Every state of EXCHANGE keeps the invariant (R141, R143). -/
theorem BusyInv.exchangeStep_keeps (hs : BusyInv i s) {turn : Turn} {m : ExState} (hseq : s.seq = .exchange turn m)
    (h : exchangeStep turn m s = .next t) : BusyInv i t := by
  have hf := exchangeStep_frame hseq h
  have hc := (BusMove.exchange hseq h).onCourse hs.course
  have hrest := fun hm => at_rest_past_write (u := s) hseq hm (requestOf i).modesel
  rcases exchangeStep_cases h with ⟨rfl, rfl⟩ | ⟨rfl, -, rfl⟩ | ⟨rfl, rfl⟩ | ⟨rfl, rfl⟩ | ⟨rfl, -, rfl⟩ |
    ⟨rfl, hfull, rfl⟩ | ⟨rfl, rfl⟩ | ⟨rfl, -, rfl⟩ | ⟨rfl, -, -, rfl⟩ | ⟨rfl, -, -, bytes, rs, hr, rfl⟩ |
    ⟨rfl, hM, bytes, rs, hr, rfl⟩ | ⟨rfl, -, rfl⟩ | ⟨rfl, -, rfl⟩
  · -- EX_DIR_ON
    refine hs.exchanges hseq hf hc rfl hs.txWf hs.rxWf rfl (fun hl => by cases hl) ?_ (by simp)
    intro t' bytes ht hb
    refine hs.txCommand t' bytes ?_ ((commandBytes_congr (s := s) rfl rfl rfl _).symm.trans hb)
    rw [← ht]
    simp [loadedTurn, hseq]
  · -- EX_WRITE
    exact hs.exchanges hseq hf hc rfl hs.txWf hs.rxWf (hs.dirExact.trans (by rw [hseq]; rfl)) (fun hl => by cases hl)
      (fun t' bytes ht => by cases ht) (by simp)
  · -- EX_DIR_OFF
    exact hs.exchanges hseq hf hc rfl hs.txWf hs.rxWf rfl (fun hl => by cases hl) (fun t' bytes ht => by cases ht)
      (by simp)
  · -- EX_ZERO_TX
    exact hs.exchanges hseq hf hc rfl rfl hs.rxWf (hs.dirExact.trans (by rw [hseq]; rfl)) (fun _ => rfl)
      (fun t' bytes ht => by cases ht) (by simp)
  · -- EX_CHECK_W, a short write
    exact hs.returns hseq hf hc rfl (hrest rfl).1 rfl (hrest rfl).2.1 rfl (.inr rfl) (.inr ⟨.inl rfl, rfl⟩)
  · -- EX_CHECK_W
    exact hs.passes hseq hf hc rfl rfl rfl rfl hs.rxWf rfl hfull
  · -- EX_ZERO_RX
    exact hs.passes hseq hf hc rfl rfl rfl rfl rfl rfl (hs.fullWrite turn (by simp [hseq]))
  · -- EX_DRAIN, with CFG_DRAIN = OFF
    exact hs.passes hseq hf hc rfl rfl rfl rfl hs.rxWf rfl (hs.fullWrite turn (by simp [hseq]))
  · -- EX_DRAIN, nothing pending
    exact hs.passes hseq hf hc rfl rfl rfl rfl hs.rxWf rfl (hs.fullWrite turn (by simp [hseq]))
  · -- EX_DRAIN, one turn
    exact hs.passes hseq hf hc hseq rfl rfl rfl hs.rxWf rfl (hs.fullWrite turn (by simp [hseq]))
  · -- EX_READ
    have hfits : (bytes.take s.latch.exM.toNat).length ≤ bufLen :=
      (List.length_take_le _ _).trans (exLength_iff.mp hM).2
    exact hs.passes hseq hf hc rfl rfl rfl rfl (memWriteList_wf hs.rxWf (by omega)) rfl
      (hs.fullWrite turn (by simp [hseq]))
  · -- EX_CHECK_R, a short read
    exact hs.returns hseq hf hc rfl (hrest rfl).1 rfl (hrest rfl).2.1 rfl (.inr rfl) (.inr ⟨.inr rfl, rfl⟩)
  · -- EX_CHECK_R
    exact hs.returns hseq hf hc rfl (hrest rfl).1 rfl (hrest rfl).2.1 rfl (.inl rfl) (.inl rfl)

/-! ## One state of a bus operation -/

/-- TXBUF holding the write frame of WRITE_EEPROM (W_ENCODE, R293). -/
theorem BusyInv.encodes {id : Int} {record : EepromRecord} (hs : BusyInv (.writeEeprom id record) s)
    (hseq : s.seq = .encodeBlock) :
    BusyInv (.writeEeprom id record) (goto (.build .second) (encodeBlock id record s)) := by
  have htx : s.txbuf = memZero := hs.txQuiet (by simp [txLoaded, loadedTurn, hseq])
  have hfits : (encodeRecord s.params.layout s.params.flagBits record (rxBlock s) id).length ≤ bufLen := by
    simp [bufLen]
  have hop : s.latch.op = some .writeEeprom := (latch_of_request hs.request).1
  have hloaded : loadedTurn (goto (.build .second) (encodeBlock id record s)) = some .second := by
    simp [loadedTurn, hop]
  exact {
    request := hs.request, canonical := hs.canonical, ready := hs.ready
    txWf := memWriteList_wf hs.txWf (by omega)
    rxWf := hs.rxWf
    dirExact := hs.dirExact.trans (by rw [hseq]; rfl)
    txQuiet := fun hl => by simp [txLoaded, hloaded] at hl
    txCommand := fun t bytes ht hb => by
      obtain rfl : t = .second := Option.some.inj (ht.symm.trans hloaded)
      cases hb
      exact memReadList_memWriteList hs.txWf (by omega)
    baudProgrammed := hs.baudProgrammed, drainFixed := hs.drainFixed, valuesClear := hs.valuesClear
    belongs := rfl
    windowAsked := by simp
    idChecked := by simp
    operandsChecked := fun _ => hs.operandsChecked (by rw [hseq]; rfl)
    lengths := by simp
    fullWrite := by simp
    exchangeResult := by simp
    sampleFits := fun _ ho => by cases ho
    probeCount := ⟨hs.probeCount.1, fun ho => by cases ho⟩ }

/-- From a state with DIR low and TXBUF clear, past the operand checks, to another at rest. -/
theorem BusyInv.goesOn (hs : BusyInv i s) (h : Bookkeeping s t) (hsrc : admitted s.seq = true)
    (hdir : dirWhile (requestOf i).modesel s.seq = false) (hload : txLoaded s = false) (hrest : resting t.seq = true)
    (hcourse : OnCourse i t) (hbuild : t.seq ≠ .build .second) (hrecord : t.seq ≠ .validateRecord) : BusyInv i t := by
  have hloaded : loadedTurn t = none := by
    unfold loadedTurn
    split <;> simp_all [resting]
  exact hs.rests h hdir hload hrest hcourse hloaded (fun hq => absurd hq hrecord) (fun _ => hs.operandsChecked hsrc)
    (fun hq => absurd hq hbuild)

/-- The states of IS_SERVO_ALIVE outside EXCHANGE, past its operand checks (R322). -/
def probing : SeqState → Bool
  | .probeLoop => true
  | .build .first => true
  | .check .first => true
  | .decodeBlock => true
  | .validateBlock => true
  | .probeCompare => true
  | .probeFail => true
  | .probeNext => true
  | .probeFinish => true
  | _ => false

theorem probing_at_rest {u : State} (h : probing u.seq = true) (modesel : Bool) :
    admitted u.seq = true ∧ dirWhile modesel u.seq = false ∧ txLoaded u = false := by
  unfold probing at h
  split at h <;> simp_all [admitted, dirWhile, txLoaded, loadedTurn]

/-- From one state of IS_SERVO_ALIVE to another. -/
theorem BusyInv.probes (hs : BusyInv i s) (h : Bookkeeping s t) (hcourse : OnCourse i t) (hsrc : probing s.seq = true)
    (hdst : probing t.seq = true) (hrest : resting t.seq = true) : t.Inv := by
  obtain ⟨hadmitted, hdir, hload⟩ := probing_at_rest hsrc (requestOf i).modesel
  exact BusyInv.inv (hs.goesOn h hadmitted hdir hload hrest hcourse (by intro hq; simp [hq, probing] at hdst)
    (by intro hq; simp [hq, probing] at hdst))

/-- Every state of a bus operation keeps the invariant. -/
theorem BusyInv.busMove_keeps (hs : BusyInv i s) (h : BusMove i s t) : t.Inv := by
  have hcourse := h.onCourse hs.course
  cases h
  case exchange hseq hstep => exact (hs.exchangeStep_keeps hseq hstep).inv
  -- the ends of an operation
  case refuse hseq | refuseRecord hseq | fail hseq | refuseSample hseq | refuseBlock hseq =>
    exact hs.ends (by rw [hseq]; rfl) (by simp [txLoaded, loadedTurn, hseq]) rfl rfl rfl rfl hs.baudProgrammed
      hs.drainFixed (fun _ => ⟨rfl, rfl, rfl⟩) rfl
  case finish hseq | returnRecord hseq | probeVerdict hseq =>
    exact hs.ends (by rw [hseq]; rfl) (by simp [txLoaded, loadedTurn, hseq]) rfl rfl rfl rfl hs.baudProgrammed
      hs.drainFixed (fun hne => absurd rfl hne) rfl
  -- the operand checks
  case enter hw hseq | enterProbe hw hseq =>
    exact BusyInv.inv (hs.rests ⟨rfl, rfl, rfl, rfl, rfl, rfl, rfl, rfl, rfl⟩ (by rw [hseq]; rfl)
      (by simp [txLoaded, loadedTurn, hseq]) rfl hcourse rfl (by simp) (fun _ => hw) (by simp))
  case enterRecord hi hid hseq =>
    subst hi
    exact BusyInv.inv (hs.rests ⟨rfl, rfl, rfl, rfl, rfl, rfl, rfl, rfl, rfl⟩ (by rw [hseq]; rfl)
      (by simp [txLoaded, loadedTurn, hseq]) rfl hcourse rfl (fun _ => hid) (fun ha => by cases ha) (by simp))
  case acceptRecord id record hi hrec hseq =>
    subst hi
    have hw : (Instr.writeEeprom id record).wellFormed = true := by
      simp only [Instr.wellFormed, hrec, Bool.and_true]
      exact hs.idChecked hseq
    exact BusyInv.inv (hs.rests ⟨rfl, rfl, rfl, rfl, rfl, rfl, rfl, rfl, rfl⟩ (by rw [hseq]; rfl)
      (by simp [txLoaded, loadedTurn, hseq]) rfl hcourse rfl (by simp) (fun _ => hw) (by simp))
  -- the calls of EXCHANGE
  case send f m hcommand hlengths hseq =>
    have htx : s.txbuf = memZero := hs.txQuiet (by simp [txLoaded, loadedTurn, hseq])
    have hfits := (exLengths_of_belongs (hcourse.belongs (by simp))).1.2
    rw [hlengths] at hfits
    obtain ⟨hwf, hread⟩ := memReadList_frame f hfits
    rw [← htx] at hwf hread
    exact BusyInv.inv (hs.loads (by rw [hseq]; rfl) hcourse hlengths hwf
      (fun bytes hb => Option.some.inj (hcommand.symm.trans hb) ▸ hread) (by rw [hseq]; rfl) (by simp))
  case sendSample id hi hseq =>
    subst hi
    have htx : s.txbuf = memZero := hs.txQuiet (by
      simp [txLoaded, loadedTurn, hseq, (latch_of_request hs.request).1, requestOf])
    obtain ⟨hwf, hread⟩ := memReadList_frame (.position (idBits id) (posBits s.latch.keepPos.toNat))
      (by simp [encodeFrame, bufLen])
    rw [← htx] at hwf hread
    exact BusyInv.inv (hs.loads (by rw [hseq]; rfl) hcourse rfl hwf (fun bytes hb => by cases hb; exact hread)
      (by rw [hseq]; rfl) (fun _ => hseq))
  case callWrite id record hi hseq =>
    subst hi
    have hloaded : loadedTurn s = some .second := by
      simp [loadedTurn, hseq, (latch_of_request hs.request).1, requestOf]
    exact BusyInv.inv (hs.loads (by rw [hseq]; rfl) hcourse rfl hs.txWf (fun bytes hb => hs.txCommand _ _ hloaded hb)
      (by rw [hseq]; rfl) (fun _ => hseq))
  -- after the checks of a response
  case keepSample id hi p hp hseq =>
    subst hi
    have hloaded : loadedTurn (goto (.build .second)
        { s with latch := { s.latch with keepPos := BitVec.ofNat 16 p } }) = none := by
      simp [loadedTurn, (latch_of_request hs.request).1, requestOf]
    have hsample : (BitVec.ofNat 16 p).toNat ≤ 16383 := by
      rw [BitVec.toNat_ofNat]
      omega
    exact BusyInv.inv (hs.rests ⟨rfl, rfl, rfl, rfl, rfl, rfl, rfl, rfl, rfl⟩ (by rw [hseq]; rfl)
      (by simp [txLoaded, loadedTurn, hseq]) rfl hcourse hloaded (by simp)
      (fun _ => hs.operandsChecked (by rw [hseq]; rfl)) (fun _ _ => hsample))
  case decode hseq | decoded hseq | encode hseq =>
    exact BusyInv.inv (hs.goesOn ⟨rfl, rfl, rfl, rfl, rfl, rfl, rfl, rfl, rfl⟩ (by rw [hseq]; rfl) (by rw [hseq]; rfl)
      (by simp [txLoaded, loadedTurn, hseq]) rfl hcourse (by simp) (by simp))
  case encoded hi hseq =>
    subst hi
    exact (hs.encodes hseq).inv
  -- the iterations of IS_SERVO_ALIVE
  case probeRead hseq | probeStop hseq | probeGood hseq | probeCounted hseq =>
    exact hs.probes ⟨rfl, rfl, rfl, rfl, rfl, rfl, rfl, rfl, rfl⟩ hcourse (by rw [hseq]; rfl) rfl rfl
  case probeBad hseq =>
    exact hs.probes ⟨rfl, rfl, rfl, rfl, rfl, rfl, rfl, rfl, rfl⟩ hcourse
      (by rcases hseq with hseq | hseq <;> rw [hseq] <;> rfl) rfl rfl
  case probeValidated q hq hseq | probeNoted q hq hseq =>
    have hdst : probing q = true ∧ resting q = true := by rcases hq with rfl | rfl <;> exact ⟨rfl, rfl⟩
    exact hs.probes ⟨rfl, rfl, rfl, rfl, rfl, rfl, rfl, rfl, rfl⟩ hcourse (by rw [hseq]; rfl) hdst.1 hdst.2

/-! ## One state of INIT or SET_BAUD -/

theorem baudValue_ne_none {baud : Int} (h : (baudReg baud).isSome = true) : baudValue baud ≠ .none := by
  obtain ⟨reg, hreg⟩ := Option.isSome_iff_exists.mp h
  rw [baudValue, hreg, Option.getD_some]
  rintro rfl
  unfold baudReg at hreg
  split_ifs at hreg <;> cases hreg

/-- The states of INIT and SET_BAUD past the rate check. -/
def linking : SeqState → Bool
  | .initDirOn => true
  | .initDelay => true
  | .initSetBaud => true
  | .initSetFraming => true
  | .initDirOff => true
  | .initFinish => true
  | .baudProgram => true
  | .baudFinish => true
  | _ => false

/-- From one state of INIT or SET_BAUD to another, DIR as the next one wants it. -/
theorem BusyInv.links (hs : BusyInv i s) (hcourse : OnCourse i t)
    (hrequest : latchedRequest t = latchedRequest s) (hcfg : SameConfig s t)
    (htx : t.txbuf = s.txbuf) (hrx : t.rxbuf = s.rxbuf) (hres : t.res = s.res)
    (hload : txLoaded s = false) (hdst : linking t.seq = true) (hdir : t.dir = dirWhile (requestOf i).modesel t.seq)
    (hwindow : (t.seq = .initDirOn ∨ t.seq = .initDelay ∨ t.seq = .initDirOff) → (requestOf i).modesel = true)
    (hw : i.wellFormed = true) : t.Inv := by
  have hno : ∀ {q : SeqState}, linking q = false → t.seq ≠ q := fun hq he => by simp [he, hq] at hdst
  refine BusyInv.inv {
    request := hrequest.trans hs.request
    canonical := hs.canonical
    ready := by rw [hcfg.initDone]; exact hs.ready
    txWf := by rw [htx]; exact hs.txWf
    rxWf := by rw [hrx]; exact hs.rxWf
    dirExact := hdir
    txQuiet := fun _ => htx.trans (hs.txQuiet hload)
    txCommand := ?_
    baudProgrammed := by rw [hcfg.initDone, hcfg.cfgBaud]; exact hs.baudProgrammed
    drainFixed := by rw [hcfg.cfgDrain, hcfg.params]; exact hs.drainFixed
    valuesClear := by rw [hres]; exact hs.valuesClear
    belongs := hcourse.belongs (hno rfl)
    windowAsked := hwindow
    idChecked := fun hq => absurd hq (hno rfl)
    operandsChecked := fun _ => hw
    lengths := fun _ _ hq => absurd hq (hno rfl)
    fullWrite := fun _ hq => by rcases hq with hq | hq | hq | hq <;> exact absurd hq (hno rfl)
    exchangeResult := fun _ hq => absurd hq (hno rfl)
    sampleFits := fun hq => by rcases hq with hq | ⟨m, hq⟩ <;> exact absurd hq (hno rfl)
    probeCount := ⟨hcourse.countLe, hcourse.countLt⟩ }
  intro t' bytes ht
  unfold loadedTurn at ht
  split at ht <;> simp_all [linking]

/-- Every state of INIT and SET_BAUD keeps the invariant. -/
theorem BusyInv.linkMove_keeps (hs : BusyInv i s) (h : LinkMove i s t) : t.Inv := by
  have hdir := hs.dirExact
  have hcourse := h.onCourse hs.course
  cases h
  case refuseRate hseq =>
    rcases hseq with hseq | hseq <;>
    exact hs.ends (by rw [hseq]; rfl) (by simp [txLoaded, loadedTurn, hseq]) rfl rfl rfl rfl hs.baudProgrammed
      hs.drainFixed (fun _ => ⟨rfl, rfl, rfl⟩) rfl
  case initFinish baud modesel hi hseq =>
    subst hi
    have hrate := baudValue_ne_none (hs.operandsChecked (by rw [hseq]; rfl))
    exact hs.ends (by rw [hseq]; rfl) (by simp [txLoaded, loadedTurn, hseq]) rfl rfl rfl rfl
      ⟨fun _ => hrate, fun _ => rfl⟩ hs.drainFixed (fun hne => absurd rfl hne) rfl
  case baudFinish baud hi hseq =>
    subst hi
    have hrate := baudValue_ne_none (hs.operandsChecked (by rw [hseq]; rfl))
    have hdone : s.initDone = true := hs.ready.resolve_left (by simp [requestOf])
    exact hs.ends (by rw [hseq]; rfl) (by simp [txLoaded, loadedTurn, hseq]) rfl rfl rfl rfl
      ⟨fun _ => hrate, fun _ => hdone⟩ hs.drainFixed (fun hne => absurd rfl hne) rfl
  case initAdmit baud modesel hi hw hseq =>
    subst hi
    rw [hseq] at hdir
    cases modesel <;>
    exact hs.links hcourse rfl ⟨rfl, rfl, rfl, rfl⟩ rfl rfl rfl (by simp [txLoaded, loadedTurn, hseq]) rfl hdir
      (by simp [requestOf]) hw
  case baudAdmit baud hi hw hseq =>
    subst hi
    rw [hseq] at hdir
    exact hs.links hcourse rfl ⟨rfl, rfl, rfl, rfl⟩ rfl rfl rfl (by simp [txLoaded, loadedTurn, hseq]) rfl
      hdir (by simp) hw
  case initDirOn baud modesel hi hseq =>
    subst hi
    exact hs.links hcourse rfl ⟨rfl, rfl, rfl, rfl⟩ rfl rfl rfl (by simp [txLoaded, loadedTurn, hseq]) rfl rfl
      (fun _ => hs.windowAsked (.inl hseq)) (hs.operandsChecked (by rw [hseq]; rfl))
  case initDelay baud modesel hi hseq =>
    subst hi
    have hmode : true = modesel := (hs.windowAsked (.inr (.inl hseq))).symm
    rw [hseq] at hdir
    exact hs.links hcourse rfl ⟨rfl, rfl, rfl, rfl⟩ rfl rfl rfl (by simp [txLoaded, loadedTurn, hseq]) rfl
      (hdir.trans hmode)
      (by simp) (hs.operandsChecked (by rw [hseq]; rfl))
  case initSetBaud baud modesel hi hseq =>
    subst hi
    rw [hseq] at hdir
    exact hs.links hcourse rfl ⟨rfl, rfl, rfl, rfl⟩ rfl rfl rfl (by simp [txLoaded, loadedTurn, hseq]) rfl
      hdir (by simp)
      (hs.operandsChecked (by rw [hseq]; rfl))
  case initSetFraming baud modesel hi hseq =>
    subst hi
    rw [hseq] at hdir
    cases modesel <;>
    exact hs.links hcourse rfl ⟨rfl, rfl, rfl, rfl⟩ rfl rfl rfl (by simp [txLoaded, loadedTurn, hseq]) rfl hdir
      (by simp [requestOf]) (hs.operandsChecked (by rw [hseq]; rfl))
  case initDirOff baud modesel hi hseq =>
    subst hi
    exact hs.links hcourse rfl ⟨rfl, rfl, rfl, rfl⟩ rfl rfl rfl (by simp [txLoaded, loadedTurn, hseq]) rfl rfl (by simp)
      (hs.operandsChecked (by rw [hseq]; rfl))
  case baudProgram baud hi hseq =>
    subst hi
    rw [hseq] at hdir
    exact hs.links hcourse rfl ⟨rfl, rfl, rfl, rfl⟩ rfl rfl rfl (by simp [txLoaded, loadedTurn, hseq]) rfl
      hdir (by simp)
      (hs.operandsChecked (by rw [hseq]; rfl))

/-- Every state of the operation in progress keeps the invariant. -/
theorem BusyInv.statesOf_keeps (hs : BusyInv i s) (h : statesOf i s = .next t) : t.Inv := by
  cases hbus : usesBus i with
  | true => exact hs.busMove_keeps (hs.canonical ▸ busMove_of_statesOf hbus h)
  | false => exact hs.linkMove_keeps (linkMove_of_statesOf hbus h)

/-! ## Steps -/

theorem inv_of_sequencerStep (hs : s.Inv) (h : sequencerStep s = .next t) : t.Inv := by
  rcases sequencerStep_next h with rfl | ⟨hidle, j, rest, -, hready, rfl⟩ | ⟨hbusy, j, hj, hstep⟩
  · exact hs
  · exact (busyInv_accept (s := takeRequest s) (inv_congr_env hs _) hidle j hready).inv
  · obtain ⟨k, hk⟩ := exists_busyInv hs hbusy
    obtain rfl : j = k := Option.some.inj (hj.symm.trans hk.latchedInstr_eq)
    exact hk.statesOf_keeps hstep

end

/-- Settles O41: a reset leaves the reset values, a request taken starts its operation (`busyInv_accept`), and every
state of an operation keeps the invariant (`BusyInv.busMove_keeps`, `BusyInv.linkMove_keeps`). -/
theorem stepKeepsTheInvariant : Obligations.StepKeepsTheInvariant := by
  intro s t hs h
  rcases step_cases s with ⟨-, hstep⟩ | ⟨-, hstep⟩ <;> rw [hstep] at h
  · exact Host.Outcome.next.inj h ▸ inv_afterReset _ _
  · exact inv_of_sequencerStep (inv_congr_env hs _) h

end Sys2Proof
end

section
/-!
SUPPORT. What a busy block answers: no fault, no refusal, a wait for a read or the Delay alone, and inside EXCHANGE the
state R141 names (R28, R141, R340, R342).
-/

namespace Sys2Proof

open Machine

section

variable {i : Instr} {s t : State}

/-- A busy block waits, or its operation moves on (R28, R340). -/
theorem BusyInv.statesOf_answers (hs : BusyInv i s) :
    (s.waits = true ∧ statesOf i s = .wait) ∨ (s.waits = false ∧ ∃ t, statesOf i s = .next t) := by
  by_cases hex : ∃ turn m, s.seq = .exchange turn m
  · obtain ⟨turn, m, hseq⟩ := hex
    obtain ⟨hN, hM⟩ := hs.exLengths_ok hseq
    rw [statesOf_exchange_of_belongs hseq hs.belongs]
    exact exchangeStep_answers hseq hN hM
  · exact Sys2Proof.statesOf_answers hs.belongs fun turn m hseq => hex ⟨turn, m, hseq⟩

theorem BusyInv.of_latchedInstr (hs : s.Inv) (hbusy : s.seq ≠ .idle) (h : latchedInstr s = some i) : BusyInv i s := by
  obtain ⟨j, hj⟩ := exists_busyInv hs hbusy
  obtain rfl : i = j := Option.some.inj (h.symm.trans hj.latchedInstr_eq)
  exact hj

theorem inv_takeReset (hs : s.Inv) : (takeReset s).Inv := inv_congr_env hs _

/-- Settles O42: only an EXCHANGE whose lengths leave the buffers faults, and the invariant shuts those out
(`BusyInv.statesOf_answers`). -/
theorem invariantStatesNeverFault : Obligations.InvariantStatesNeverFault := by
  intro s f hs h
  rcases step_cases s with ⟨-, hstep⟩ | ⟨-, hstep⟩ <;> rw [hstep] at h
  · cases h
  · rcases sequencerStep_cases h with ⟨-, -, ho⟩ | ⟨-, i, rest, -, ⟨-, ho⟩ | ⟨-, -, ho⟩⟩ | ⟨-, -, ho⟩ |
      ⟨hbusy, i, hi, ⟨t, -, ho⟩ | ⟨-, ho⟩ | ⟨g, hg, -⟩⟩
    any_goals cases ho
    rcases (BusyInv.of_latchedInstr (inv_takeReset hs) hbusy hi).statesOf_answers with ⟨-, hw⟩ | ⟨-, t, ht⟩
    · cases hg.symm.trans hw
    · cases hg.symm.trans ht

/-- Settles O44: the only refusal of a step is IDLE's, of a request other than INIT before INIT. -/
theorem onlyRequestsBeforeInitAreRefused : Obligations.OnlyRequestsBeforeInitAreRefused := by
  intro s r hs h
  rcases step_cases s with ⟨-, hstep⟩ | ⟨-, hstep⟩ <;> rw [hstep] at h
  · cases h
  · rcases sequencerStep_cases h with ⟨-, -, ho⟩ | ⟨hidle, i, rest, hr, ⟨-, ho⟩ | ⟨hop, hinit, ho⟩⟩ | ⟨-, -, ho⟩ |
      ⟨-, i, -, ⟨t, -, ho⟩ | ⟨-, ho⟩ | ⟨g, -, ho⟩⟩ <;> cases ho
    exact ⟨rfl, hinit, hidle, i, rest, hr, by simpa using mt (op_eq_init_iff i).mpr hop⟩

/-- A step of a busy block with no reset coming (R28). -/
theorem BusyInv.step_eq (hs : BusyInv i s) (hquiet : s.env.resets = []) (hbusy : s.seq ≠ .idle) :
    (s.waits = true ∧ step s = .next s) ∨ (s.waits = false ∧ ∃ t, statesOf i s = .next t ∧ step s = .next t) := by
  rw [step_busy hquiet hbusy hs.latchedInstr_eq, drive_one hbusy]
  rcases hs.statesOf_answers with ⟨hw, hwait⟩ | ⟨hw, t, ht⟩
  · exact .inl ⟨hw, by rw [hwait]⟩
  · exact .inr ⟨hw, t, ht, by rw [ht]⟩

/-- Settles O56: a state that moves on lowers the work left (`statesOf_lowers`), so it does not answer itself. -/
theorem stepWaitsOnlyForReadsAndTheWindow : Obligations.StepWaitsOnlyForReadsAndTheWindow := by
  intro s hs hquiet hbusy
  obtain ⟨i, hi⟩ := exists_busyInv hs hbusy
  rcases hi.step_eq hquiet hbusy with ⟨hw, hstep⟩ | ⟨hw, t, ht, hstep⟩
  · exact ⟨fun _ => hw, fun _ => hstep⟩
  · have hlower := statesOf_lowers hi.course ht
    refine ⟨fun hsame => ?_, fun hw' => absurd hw' (by simp [hw])⟩
    obtain rfl : t = s := Host.Outcome.next.inj (hstep.symm.trans hsame)
    exact absurd hlower (lt_irrefl _)

/-- In IDLE, or in progress with the invariant. -/
def IdleOrBusy (i : Instr) (s : State) : Prop := s.seq = .idle ∨ BusyInv i s

/-- A run of an operation under the invariant ends in IDLE or at a wait (R28). -/
theorem BusyInv.drive_ends (hs : BusyInv i s) (h : drive (statesOf i) (driveBound s) s = .next t) :
    t.seq = .idle ∨ t.waits = true := by
  have hstep : ∀ u v, IdleOrBusy i u → u.seq ≠ .idle → statesOf i u = .next v →
      IdleOrBusy i v ∧ workLeft v < workLeft u := by
    intro u v hu hbusy hv
    have hu := hu.resolve_left hbusy
    refine ⟨?_, statesOf_lowers hu.course hv⟩
    by_cases hidle : v.seq = .idle
    · exact .inl hidle
    · refine .inr (BusyInv.of_latchedInstr (hu.statesOf_keeps hv) hidle ?_)
      rw [latchedInstr_of_request ((moveFrame_of_statesOf hv).request.trans hu.request), hu.canonical]
  have hkept := drive_keeps (P := IdleOrBusy i) (fun u v hu hb hv => (hstep u v hu hb hv).1) (.inr hs) h
  rcases Machine.drive_ends workLeft hstep (.inr hs) (workLeft_lt_driveBound s) h with hidle | hwait
  · exact .inl hidle
  · refine hkept.imp_right fun ht => ?_
    rcases ht.statesOf_answers with ⟨hw, -⟩ | ⟨-, u, hu⟩
    · exact hw
    · cases hwait.symm.trans hu

/-- Settles O43: the states of a run lower the work left, and the run's bound is more than it (`BusyInv.drive_ends`). -/
theorem operationRunsToIdleOrAWait : Obligations.OperationRunsToIdleOrAWait := by
  intro i s t hs hready h
  rw [exec_eq_operate, ← statesOf_instrOf] at h
  rcases operate_cases h with ⟨-, -, -, ho⟩ | ⟨hidle, hr, ho⟩ | ⟨hbusy, hl, ho⟩ | ⟨hbusy, hl, -⟩
  · cases ho
  · exact (busyInv_accept hs hidle i hr).drive_ends ho.symm
  · exact (BusyInv.of_latchedInstr hs hbusy (latchedInstr_of_request hl)).drive_ends ho.symm
  · exact absurd (hready.resolve_left hbusy) hl

/-- A step of a block inside an EXCHANGE, with no reset coming. -/
theorem step_exchange {turn : Turn} {m : ExState} (hs : s.Inv) (hquiet : s.env.resets = [])
    (hseq : s.seq = .exchange turn m) : step s = drive (exchangeStep turn m) 1 s := by
  have hbusy : s.seq ≠ .idle := by simp [hseq]
  obtain ⟨i, hi⟩ := exists_busyInv hs hbusy
  rw [step_busy hquiet hbusy hi.latchedInstr_eq, drive_one hbusy, drive_one hbusy,
    statesOf_exchange_of_belongs hseq hi.belongs]

theorem step_exchange_next {turn : Turn} {m : ExState} (hs : s.Inv) (hquiet : s.env.resets = [])
    (hseq : s.seq = .exchange turn m) (h : exchangeStep turn m s = .next t) : step s = .next t := by
  rw [step_exchange hs hquiet hseq, drive_one (by simp [hseq]), h]

theorem step_exchange_wait {turn : Turn} {m : ExState} (hs : s.Inv) (hquiet : s.env.resets = [])
    (hseq : s.seq = .exchange turn m) (h : exchangeStep turn m s = .wait) : step s = .next s := by
  rw [step_exchange hs hquiet hseq, drive_wait h]

/-! ## The states of EXCHANGE -/

theorem exchangeStep_write {turn : Turn} (hN : exLength s.latch.exN = true) {w : Nat} {e : Env}
    (htake : takeWrite s.env = (w, e)) : exchangeStep turn .write s = .next { s with
      seq := .exchange turn .dirOff
      latch := { s.latch with exW := BitVec.ofNat 7 (min w s.latch.exN.toNat) }
      env := e.did [.write (memReadList s.txbuf 0 s.latch.exN.toNat) (min w s.latch.exN.toNat)] } := by
  simp only [exchangeStep, exWrite, hN, if_true, htake]
  rfl

theorem exchangeStep_drain_off {turn : Turn} (hoff : s.cfgDrain = .off) :
    exchangeStep turn .drain s = .next (goto (.exchange turn .read) s) := by
  simp only [exchangeStep, exDrain, hoff]

/-- A turn of the drain that finds k bytes (R142). -/
theorem exchangeStep_drain {turn : Turn} (hloop : s.cfgDrain = .loop) {k : Nat}
    {e : Env} (htake : takeAvail s.env = (k, e)) :
    (k = 0 → exchangeStep turn .drain s = .next { s with seq := .exchange turn .read, env := e.did [.avail 0] }) ∧
    (k ≠ 0 → s.env.reads = [] → exchangeStep turn .drain s = .wait) ∧
    (k ≠ 0 → ∀ bytes rs, s.env.reads = bytes :: rs → bytes.length ≤ k → exchangeStep turn .drain s = .next
      { s with env := { e with reads := rs }.did [.avail k, .read k bytes] }) := by
  simp only [exchangeStep, exDrain, hloop, htake]
  refine ⟨fun hk => by simp only [hk, if_true]; rfl, fun hk hr => by simp only [hk, if_false, hr],
    fun hk bytes rs hr hfits => ?_⟩
  simp only [hk, if_false, hr, List.take_of_length_le hfits]
  simp [emit, Env.did]

/-- Settles O55: the block's step is EXCHANGE's (`step_exchange`), read off in each of its states (R141). -/
theorem eachStepIsOneExchangeState : Obligations.EachStepIsOneExchangeState := by
  intro s turn m hs hquiet hseq
  obtain ⟨hN, hM⟩ : exLength s.latch.exN = true ∧ exLength s.latch.exM = true := by
    obtain ⟨i, hi⟩ := exists_busyInv hs (by simp [hseq])
    exact hi.exLengths_ok hseq
  refine ⟨?_, ?_, ?_, ?_, ?_, ?_, ?_, ?_, ?_⟩ <;> rintro rfl
  all_goals
    have hnext := fun t => step_exchange_next (t := t) hs hquiet hseq
    have hwait := step_exchange_wait hs hquiet hseq
  · exact hnext _ rfl
  · refine ⟨fun w ws hw hle => ?_, fun hw => ⟨min (takeWrite s.env).1 s.latch.exN.toNat, min_le_right _ _, ?_⟩⟩
    · rw [hnext _ (exchangeStep_write hN (takeWrite_cons hw)), min_eq_left hle]
    · have htake : takeWrite s.env = ((takeWrite s.env).1, { s.env with draws := s.env.draws + 1 }) := by
        simp [takeWrite, hw]
      exact hnext _ (exchangeStep_write hN htake)
  · exact hnext _ rfl
  · exact hnext _ rfl
  · exact ⟨fun hshort => hnext _ (by
        simp only [exchangeStep, exCheckW, ne_eq, hshort, not_false_eq_true, if_true]; rfl),
      fun hfull => hnext _ (by simp only [exchangeStep, exCheckW, ne_eq, hfull, not_true_eq_false, if_false]; rfl)⟩
  · exact hnext _ rfl
  · refine ⟨fun hoff => hnext _ (exchangeStep_drain_off hoff), fun k ks hloop hk => ?_,
      fun hloop hk => ⟨(takeAvail s.env).1, ?_⟩⟩
    · obtain ⟨h0, hw, hr⟩ := exchangeStep_drain hloop (takeAvail_cons hk)
      exact ⟨fun hz => hnext _ (h0 hz), fun hz hn => hwait (hw hz hn),
        fun hz bytes rs hb hl => hnext _ (hr hz bytes rs hb hl)⟩
    · have htake : takeAvail s.env = ((takeAvail s.env).1, { s.env with draws := s.env.draws + 1 }) := by
        simp [takeAvail, hk]
      obtain ⟨h0, hw, hr⟩ := exchangeStep_drain hloop htake
      exact ⟨fun hz => hnext _ (h0 hz), fun hz hn => hwait (hw hz hn),
        fun hz bytes rs hb hl => hnext _ (hr hz bytes rs hb hl)⟩
  · refine ⟨fun hr => hwait (by simp only [exchangeStep, exRead, hM, if_true, hr]), fun bytes rs hr hfits => hnext _ ?_⟩
    simp only [exchangeStep, exRead, hM, if_true, hr, List.take_of_length_le hfits]
    rfl
  · exact ⟨fun hshort => hnext _ (by
        simp only [exchangeStep, exCheckR, ne_eq, hshort, not_false_eq_true, if_true]; rfl),
      fun hfull => hnext _ (by simp only [exchangeStep, exCheckR, ne_eq, hfull, not_true_eq_false, if_false]; rfl)⟩

end

end Sys2Proof
end

section
/-!
SUPPORT. Reset, requests that are not accepted or not in their domain, and the two link operations (R150, R151, R342,
R347, R380, R382).
-/

namespace Sys2Proof

open Machine

/-! ## Reset -/

/-- Settles O38: read off the reset state. -/
theorem resetLeavesTheSpecsValues : Obligations.ResetLeavesTheSpecsValues :=
  ⟨fun _ => rfl, fun _ => rfl, rfl, rfl, rfl, rfl, rfl, rfl, rfl, rfl⟩

/-- Settles O39: the reset block is the reset state under its own parameters, beside its own outside, and a step with a
reset listed is that. -/
theorem resetAbandonsTheOperation : Obligations.ResetAbandonsTheOperation := by
  refine ⟨fun s => ⟨rfl, rfl, rfl, rfl⟩, fun s rs hrs => ?_⟩
  rcases step_cases s with ⟨-, hstep⟩ | ⟨hno, -⟩
  · rw [hstep, takeReset, hrs]
    rfl
  · exact absurd (by rw [hrs]; rfl) hno

/-! ## Requests that are not accepted -/

/-- Settles O11: IDLE's guard on INIT_DONE (R342 step 1). -/
theorem requestBeforeInitIsRefused : Obligations.RequestBeforeInitIsRefused := by
  intro i s hidle hinit hi
  have hop : (requestOf i).op ≠ .init := by simp [op_eq_init_iff, hi]
  rw [exec_eq_operate]
  simp [operate, hidle, hinit, hop]

/-- Settles O12: a busy block goes on with its own request alone (R347). -/
theorem busyBlockIgnoresOtherRequests : Obligations.BusyBlockIgnoresOtherRequests := by
  intro i s hbusy hother
  rw [exec_eq_operate]
  simp [operate, hbusy, hother]

/-! ## Requests outside their domain -/

/-- The first state of an operation refuses what is outside its domain, a record apart (R108, R342). -/
theorem statesOf_entry_of_not_wellFormed {i : Instr} {s : State} (hw : i.wellFormed = false)
    (hcode : refusalCode i = .invalidOption) (hs : s.seq = entryState (requestOf i).op) :
    statesOf i s = .next (raiseFail .invalidOption s) := by
  cases i <;> simp_all [requestOf, entryState, statesOf, initStates, setBaudStates, setPosStates, setPosWeakStates,
    setPosWeakKeepStates, readParamStates, writeParamStates, readEepromStates, readEepromRawStates, writeEepromStates,
    isServoAliveStates, setIdStates, Instr.wellFormed, refusalCode]

/-- WRITE_EEPROM refuses a record in its second state, with the mask in place (R293). -/
theorem exec_writeEeprom_refuses_record {id : Int} {record : EepromRecord} {s : State} (hidle : s.seq = .idle)
    (hinit : s.initDone = true) (hid : idInRange id = true) (hrec : recordOk .write record = false) :
    exec (.writeEeprom id record) s = .next (raiseFail .eepromDataWrong (validate .write record
      (goto .validateRecord (accept (requestOf (.writeEeprom id record)) s)))) := by
  have hbound : driveBound s = (254 + s.env.reads.length) + 1 + 1 := by simp only [driveBound]; omega
  have hseq : (accept (requestOf (.writeEeprom id record)) s).seq = .admission := rfl
  rw [exec_eq_operate, operate_ready hidle (.inr hinit), hbound,
    drive_next (by rw [hseq]; decide) (statesOf_writeEeprom_admission hseq hid),
    drive_next (by simp) (statesOf_writeEeprom_validateRecord_refused (goto_seq _ _) hrec),
    drive_idle (raiseFail_seq _ _)]

theorem initDone_of_ready {i : Instr} {s : State} (h : isInit i = true ∨ s.initDone = true) :
    (requestOf i).op = .init ∨ s.initDone = true := h.imp_left (op_eq_init_iff i).mpr

/-- Settles O10: the first state refuses (`statesOf_entry_of_not_wellFormed`), or WRITE_EEPROM's second its record. -/
theorem illFormedRequestEndsBeforeTheBus : Obligations.IllFormedRequestEndsBeforeTheBus := by
  intro i s hidle hready hw
  by_cases hcode : refusalCode i = .invalidOption
  · have hmask : refusalMask i = 0 := by cases i <;> simp_all [refusalMask, refusalCode]
    rw [hcode, hmask]
    exact ⟨_, exec_eq_raiseFail hidle (initDone_of_ready hready) (statesOf_entry_of_not_wellFormed hw hcode rfl),
      endsBeforeBus_raiseFail i s _⟩
  · obtain ⟨id, record, rfl⟩ : ∃ id record, i = .writeEeprom id record := by
      cases i
      case writeEeprom id record => exact ⟨id, record, rfl⟩
      all_goals exact absurd rfl hcode
    have hid : idInRange id = true := by
      by_contra hid
      exact hcode (by simp [refusalCode, hid])
    have hrec : recordOk .write record = false := by simpa [Instr.wellFormed, hid] using hw
    refine ⟨_, exec_writeEeprom_refuses_record hidle (hready.resolve_left (by simp [isInit])) hid hrec, ?_⟩
    simp only [refusalCode, refusalMask, hid, if_true]
    exact ⟨rfl, rfl, rfl, rfl, rfl, rfl, ⟨rfl, rfl, rfl, rfl⟩, rfl⟩

/-! ## INIT and SET_BAUD -/

section

variable {baud : Int} {reg : BaudReg} {modesel : Bool} {s u : State} {n : Nat}

theorem baudValue_eq (h : baudReg baud = some reg) : baudValue baud = reg := by rw [baudValue, h, Option.getD_some]

theorem baudRate_eq (h : baudReg baud = some reg) : baudRate reg = baud.toNat := by
  unfold baudReg at h
  split_ifs at h with h1 h2 h3
  · rw [← Option.some.inj h, h1]; rfl
  · rw [← Option.some.inj h, h2]; rfl
  · rw [← Option.some.inj h, h3]; rfl

/-- INIT's states up to its Delay (R150). -/
theorem drive_initAdmit_window (hbaud : baudReg baud = some reg) (hu : u.seq = .initAdmit) :
    drive (initStates baud true) (n + 2) u = drive (initStates baud true) n (goto .initDelay (driveDir true u)) := by
  have hadmit : initStates baud true u = .next (goto .initDirOn u) := by simp [initStates, hu, hbaud]
  rw [drive_next (by simp [hu]) hadmit,
    drive_next (s' := goto .initDelay (driveDir true u)) (by simp) (by simp only [initStates, goto_seq]; rfl)]

/-- INIT's Delay at its end (R28, R352). -/
theorem drive_initDelay (hu : u.seq = .initDelay) (hd : u.env.delays ≠ 0) :
    drive (initStates baud modesel) (n + 1) u = drive (initStates baud modesel) n
      (goto .initSetBaud (emit (.delay u.params.startupWindow)
        { u with env := { u.env with delays := u.env.delays - 1 } })) :=
  drive_next (by simp [hu]) (by simp [initStates, hu, hd]) n

/-- INIT without a startup window to wait for (R150). -/
theorem drive_initAdmit (hbaud : baudReg baud = some reg) (hu : u.seq = .initAdmit) :
    drive (initStates baud false) (n + 1) u = drive (initStates baud false) n (goto .initSetBaud u) :=
  drive_next (by simp [hu]) (by simp [initStates, hu, hbaud]) n

/-- The link programmed: the rate and the framing (R150). -/
theorem drive_initSetBaud (hbaud : baudReg baud = some reg) (hu : u.seq = .initSetBaud) :
    drive (initStates baud modesel) (n + 2) u = drive (initStates baud modesel) n
      (goto (if modesel then .initDirOff else .initFinish)
        { u with env := u.env.did [.setBaud baud.toNat, .setFraming 8 .even 1] }) := by
  have hrate : initStates baud modesel u = .next (goto .initSetFraming (emit (.setBaud baud.toNat) u)) := by
    simp only [initStates, hu, baudValue_eq hbaud, baudRate_eq hbaud]
  rw [drive_next (by simp [hu]) hrate, drive_next (by simp) (by simp only [initStates, goto_seq]; rfl)]
  simp [goto, emit, Env.did]

theorem drive_initDirOff (hu : u.seq = .initDirOff) :
    drive (initStates baud modesel) (n + 1) u =
      drive (initStates baud modesel) n (goto .initFinish (driveDir false u)) :=
  drive_next (by simp [hu]) (by simp only [initStates, hu]) n

theorem drive_initFinish (hbaud : baudReg baud = some reg) (hu : u.seq = .initFinish) :
    drive (initStates baud modesel) (n + 1) u =
      .next (completePlain { u with cfgBaud := reg, initDone := true }) := by
  have hfinish : initStates baud modesel u = .next (completePlain { u with cfgBaud := reg, initDone := true }) := by
    simp only [initStates, hu, baudValue_eq hbaud]
  rw [drive_next (by simp [hu]) hfinish, drive_idle rfl]

end

/-- Settles O13: INIT's states one after another, with the startup window or without; before the window's end it stays
in its Delay (`drive_wait`). -/
theorem initProgramsTheTransport : Obligations.InitProgramsTheTransport := by
  intro baud modesel reg s hidle hbaud
  have hbound : driveBound s = (249 + s.env.reads.length) + 7 := by simp only [driveBound]; omega
  rw [exec_eq_operate, operate_ready hidle (.inl rfl), hbound]
  change (_ → ∃ t, drive (initStates baud modesel) _ _ = _ ∧ _) ∧
    (_ → _ → ∃ t, drive (initStates baud modesel) _ _ = _ ∧ _)
  cases modesel with
  | false =>
    rw [drive_initAdmit hbaud rfl, drive_initSetBaud hbaud rfl, if_neg Bool.false_ne_true, drive_initFinish hbaud rfl]
    exact ⟨fun _ => ⟨_, rfl, by simp [finalMask, latchesFor, Env.did]⟩, fun h => by cases h⟩
  | true =>
    rw [drive_initAdmit_window hbaud rfl]
    refine ⟨fun hd => ?_, fun _ hd => ?_⟩
    · rw [drive_initDelay (u := goto .initDelay (driveDir true (accept _ _))) rfl (hd rfl),
        drive_initSetBaud hbaud rfl, if_pos rfl, drive_initDirOff rfl, drive_initFinish hbaud rfl]
      exact ⟨_, rfl, by simp [finalMask, latchesFor, Env.did]⟩
    · have hwait : initStates baud true (goto .initDelay (driveDir true (accept (requestOf (.init baud true)) s))) =
          .wait := if_pos hd
      rw [drive_wait hwait]
      exact ⟨_, rfl, by simp [State.busy, Env.did]⟩

/-- Settles O14: SET_BAUD's three states (R151). -/
theorem setBaudChangesTheRateOnly : Obligations.SetBaudChangesTheRateOnly := by
  intro baud reg s hidle hinit hbaud
  have hbound : driveBound s = (252 + s.env.reads.length) + 1 + 1 + 1 + 1 := by simp only [driveBound]; omega
  have hadmit : ∀ u : State, u.seq = .baudAdmit → setBaudStates baud u = .next (goto .baudProgram u) := fun u hu => by
    simp [setBaudStates, hu, hbaud]
  have hprogram : ∀ u : State, u.seq = .baudProgram →
      setBaudStates baud u = .next (goto .baudFinish (emit (.setBaud baud.toNat) u)) := fun u hu => by
    simp only [setBaudStates, hu, baudValue_eq hbaud, baudRate_eq hbaud]
  have hfinish : ∀ u : State, u.seq = .baudFinish →
      setBaudStates baud u = .next (completePlain { u with cfgBaud := reg }) := fun u hu => by
    simp only [setBaudStates, hu, baudValue_eq hbaud]
  rw [exec_eq_operate, operate_ready hidle (.inr hinit), hbound]
  change ∃ t, drive (setBaudStates baud) _ _ = _ ∧ _
  rw [drive_next (by simp [requestOf, entryState]) (hadmit _ rfl), drive_next (by simp) (hprogram _ rfl),
    drive_next (by simp) (hfinish _ rfl), drive_idle rfl]
  exact ⟨_, rfl, by simp [finalMask, latchesFor, Env.did]⟩

end Sys2Proof
end

section
/-!
SUPPORT. The frames on the bus are command frames of the block (R90 to R99, R109).
-/

namespace Sys2Proof

open Machine

/-- A frame that decodes to an operation is legal on the bus (R109). -/
theorem legalFrame_encodeFrame {p : Params} {f : Frame} {i : Instr} (hf : f.wellFormed = true)
    (hi : frameInstr p f = .ok i) : legalFrame p (encodeFrame f) = true := by
  have h := decodeInstr_encodeFrame_ok hf hi []
  rw [List.append_nil] at h
  simp only [legalFrame, h]

theorem legalFrame_position (p : Params) (id : BitVec 5) (pos : BitVec 14) :
    legalFrame p (encodeFrame (.position id pos)) = true := by
  by_cases hpos : pos = 0
  · exact legalFrame_encodeFrame rfl (if_pos hpos)
  · exact legalFrame_encodeFrame rfl (if_neg hpos)

/-- The block WRITE_EEPROM encodes is a write frame of its id (R97, R260). -/
theorem encodeRecord_eq_encodeFrame {l : Layout} (hl : l.ok = true) (b : FlagBits) (r : EepromRecord)
    {base : List Byte} (hbase : base.length = 66) (id : Int) :
    encodeRecord l b r base id = encodeFrame (.writeEeprom (idBits id) ((encodeRecord l b r base id).drop 2)) := by
  have h0 : (encodeRecord l b r base id).getD 0 0x00#8 = 0b110#3 ++ idBits id := by
    rw [getD_encodeRecord_header hl id (by decide)]
    simp [writeHeader, hbase]
  have h1 : (encodeRecord l b r base id).getD 1 0x00#8 = 0x00#8 := by
    rw [getD_encodeRecord_header hl id (by decide)]
    simp [writeHeader, hbase]
  have hlength : (encodeRecord l b r base id).length = 66 := by rw [encodeRecord_length, hbase]
  match hout : encodeRecord l b r base id, hlength with
  | b0 :: b1 :: payload, _ =>
    rw [hout] at h0 h1
    simp only [List.getD_cons_zero, List.getD_cons_succ] at h0 h1
    rw [h0, h1]
    rfl

section

variable {i : Instr} {s t : State}

/-- The command of every exchange of a well-formed operation is a command frame (R102, R183, R293). -/
theorem legalFrame_commandBytes (hp : s.params.ok = true) (hw : i.wellFormed = true) {turn : Turn} {bytes : List Byte}
    (h : commandBytes s i turn = some bytes) : legalFrame s.params bytes = true := by
  obtain ⟨hsub, hlayout, -⟩ := params_ok_iff.mp hp
  cases turn with
  | first =>
    cases hwrite : isWriteEeprom i with
    | true =>
      cases i <;> cases hwrite
      cases h
      exact legalFrame_encodeFrame rfl rfl
    | false =>
      have h : (instrFrame s.params [] i).map encodeFrame = some bytes := by
        cases i <;> simp_all [commandBytes, isWriteEeprom]
      obtain ⟨f, hf, rfl⟩ := Option.map_eq_some_iff.mp h
      obtain ⟨hwf, hinstr⟩ := frameInstr_instrFrame hsub hw hwrite hf
      exact legalFrame_encodeFrame hwf hinstr
  | second =>
    cases i <;> cases h
    case setPosWeakKeep.refl => exact legalFrame_position _ _ _
    case writeEeprom.refl id record =>
      simp only [Instr.wellFormed, Bool.and_eq_true] at hw
      rw [encodeRecord_eq_encodeFrame hlayout _ _ (rxBlock_length s)]
      exact legalFrame_encodeFrame (decide_eq_true (by simp)) (frameInstr_writeEeprom hlayout hw.1 _)

/-- An exchange of the operation's own has a command, of EX_N's length (R113, R140). -/
theorem exists_commandBytes {turn : Turn} {m : ExState}
    (h : belongs (requestOf i).op (.exchange turn m) = true) :
    ∃ bytes, commandBytes s i turn = some bytes ∧ bytes.length = (exLengths (requestOf i).op turn).1 := by
  cases i <;> cases turn <;> cases h <;>
    exact ⟨_, rfl, by simp [encodeFrame, exLengths, requestOf]⟩

/-- What EX_WRITE puts on the bus is a command frame. -/
theorem BusyInv.written_legal (hs : BusyInv i s) (hp : s.params.ok = true) {turn : Turn}
    (hseq : s.seq = .exchange turn .write) :
    legalFrame s.params (memReadList s.txbuf 0 s.latch.exN.toNat) = true := by
  obtain ⟨bytes, hcommand, hlength⟩ := exists_commandBytes (s := s) (hseq ▸ hs.belongs)
  have htx := hs.txCommand turn bytes (by simp [loadedTurn, hseq]) hcommand
  rw [(hs.lengths turn .write hseq).1, ← hlength, htx]
  exact legalFrame_commandBytes hp (hs.operandsChecked (by rw [hseq]; rfl)) hcommand

/-- A state of an operation writes nothing but command frames. -/
theorem BusyInv.framesLegal (hs : BusyInv i s) (hp : s.params.ok = true) (hframes : s.FramesLegal)
    (h : statesOf i s = .next t) : t.FramesLegal := by
  have hparams := (moveFrame_of_statesOf h).params
  have hmade : ∃ made, t.env.trace = s.env.trace ++ made ∧
      ∀ bytes w, PortAction.write bytes w ∈ made → legalFrame s.params bytes = true := by
    cases hbus : usesBus i with
    | true =>
      obtain ⟨made, htrace, hactions⟩ := (busFrame_of_statesOf hbus h).made
      refine ⟨made, htrace, fun bytes w hw => ?_⟩
      obtain ⟨⟨turn, hseq⟩, rfl⟩ := hactions _ hw
      exact hs.written_legal hp hseq
    | false =>
      obtain ⟨made, htrace, hnone⟩ := (linkFrame_of_statesOf hbus h).made
      exact ⟨made, htrace, fun bytes w hw => absurd hw (hnone bytes w)⟩
  obtain ⟨made, htrace, hlegal⟩ := hmade
  intro bytes w hw
  rw [htrace, List.mem_append] at hw
  rw [hparams]
  exact hw.elim (hframes bytes w) (hlegal bytes w)

end

/-- Settles O50: EX_WRITE alone writes, and it writes the operation's command (`BusyInv.written_legal`), which is a
command frame (`legalFrame_commandBytes`). -/
theorem reservedFramesAreNeverEmitted : Obligations.ReservedFramesAreNeverEmitted := by
  intro s t hs hp hframes h
  rcases step_cases s with ⟨-, hstep⟩ | ⟨-, hstep⟩ <;> rw [hstep] at h
  · exact Host.Outcome.next.inj h ▸ hframes
  · have hs := inv_takeReset hs
    have hframes : (takeReset s).FramesLegal := hframes
    rcases sequencerStep_next h with rfl | ⟨-, i, rest, -, -, rfl⟩ | ⟨hbusy, i, hi, hmove⟩
    · exact hframes
    · exact hframes
    · exact (BusyInv.of_latchedInstr hs hbusy hi).framesLegal hp hframes hmove

end Sys2Proof
end

section
/-!
SUPPORT. The first exchange of a bus operation: from its request to EXCHANGE's call, and from EXCHANGE's return to the
operation's end (R140 to R144, R342 to R344).
-/

namespace Sys2Proof

open Machine

/-! ## An operation inside an EXCHANGE, and behind it -/

/-- i has come from s, in at most n states beside the answers it has taken, to the call of an EXCHANGE with its
command, the outside then e. -/
structure Called (i : Instr) (s : State) (turn : Turn) (n : Nat) (command : List Byte) (m : Nat) (u : State)
    (e : Env) : Prop where
  runs : Runs (statesOf i) n (accept (requestOf i) s) u
  exchanges : ∀ v x, v.seq = .exchange turn x → statesOf i v = exchangeStep turn x v
  loaded : Loaded turn command m u
  underway : Underway i s u
  env : u.env = e

/-- i has come from s to the checks after an EXCHANGE that left this result and this response, the outside then e. -/
structure Returned (i : Instr) (s : State) (turn : Turn) (n : Nat) (ret : RetCode) (response : List Byte) (u : State)
    (e : Env) : Prop extends Exchanged i s u response where
  runs : Runs (statesOf i) n (accept (requestOf i) s) u
  seq : u.seq = .check turn
  exRet : u.latch.exRet = ret
  env : u.env = e

section

variable {i : Instr} {s u t : State} {turn : Turn} {n m : Nat} {command response : List Byte} {o : Offer} {e e' : Env}

theorem Called.done (h : Called i s turn n command m u e') (ho : o.drains) (hr : o.response.length = m)
    (he : e' = o.before s.cfgDrain command.length e) :
    Returned i s turn (n + 8) .ok o.response (exchangeDone turn command o e u)
      (e.did (o.actions s.cfgDrain command m)) := by
  have hdrain := h.underway.config.cfgDrain
  have hfits : o.response.length ≤ bufLen := by
    rw [hr, ← h.loaded.exM]
    exact (exLength_iff.mp h.loaded.readable).2
  refine { h.underway.exchanged_done turn command e hfits with
    runs := h.runs.trans (h.loaded.runs_done h.exchanges ho hr (by rw [h.env, he, hdrain]))
    seq := rfl, exRet := rfl, env := ?_ }
  simp only [exchangeDone, hdrain, h.loaded.exM]

theorem Called.shortRead (h : Called i s turn n command m u e') (ho : o.drains) (hr : o.response.length < m)
    (he : e' = o.before s.cfgDrain command.length e) :
    Returned i s turn (n + 8) .readError [] (exchangeShortRead turn command o e u)
      (e.did (o.actions s.cfgDrain command m)) := by
  have hdrain := h.underway.config.cfgDrain
  refine { h.underway.exchanged_shortRead turn command o e with
    runs := h.runs.trans (h.loaded.runs_shortRead h.exchanges ho hr (by rw [h.env, he, hdrain]))
    seq := rfl, exRet := rfl, env := ?_ }
  simp only [exchangeShortRead, hdrain, h.loaded.exM]

theorem Called.shortWrite (h : Called i s turn n command m u e') {w : Nat} {ws : List Nat} (hw : e'.writes = w :: ws)
    (hlt : w < command.length) :
    Returned i s turn (n + 5) .writeError [] (exchangeShortWrite turn command w ws u)
      ({ e' with writes := ws }.did [.dir true, .write command w, .dir false]) :=
  { h.underway.exchanged_shortWrite turn command w ws with
    runs := h.runs.trans (h.loaded.runs_shortWrite h.exchanges (by rw [h.env, hw]) hlt)
    seq := rfl, exRet := rfl
    env := by simp only [exchangeShortWrite, h.env] }

/-! ## Behind it -/

/-- What follows the checks, when it comes to an end, is the operation's outcome. -/
theorem Returned.ends_of_runs {ret : RetCode} (h : Returned i s turn n ret response u e) (hs : s.Ready) {k : Nat}
    (hrun : Runs (statesOf i) k u t) (hk : n + k ≤ 256) {r : Results} {left : List Byte}
    (ht : EndsWith i s t r left e') : ∃ t, exec i s = .next t ∧ EndsWith i s t r left e' :=
  ⟨t, exec_eq_of_runs hs (h.runs.trans hrun) hk ht.idle, ht⟩

/-- Checks that end the operation in their own state. -/
theorem Returned.ends {ret : RetCode} (h : Returned i s turn n ret response u e) (hs : s.Ready) (hn : n ≤ 255)
    (hstep : statesOf i u = .next t) {r : Results} {left : List Byte} (ht : EndsWith i s t r left e) :
    ∃ t, exec i s = .next t ∧ EndsWith i s t r left e :=
  h.ends_of_runs hs (.one (by simp [h.seq]) hstep (by rw [ht.env, h.env])) (by omega) ht

theorem Returned.fails {ret c : RetCode} (h : Returned i s turn n ret response u e) (hs : s.Ready) (hn : n ≤ 255)
    (hstep : statesOf i u = .next (raiseFail c u)) :
    ∃ t, exec i s = .next t ∧ EndsWith i s t { ret := c } response e :=
  h.ends hs hn hstep (h.env ▸ h.endsWith_raiseFail c)

theorem Exchanged.endsWith_complete (h : Exchanged i s u response) (v : BitVec 16) :
    EndsWith i s (complete v false {} u) { ret := .ok, outValue := v } response u.env :=
  ⟨rfl, h.dir, h.txbuf, h.rxbuf, by rw [complete_res, h.mask], rfl, h.config.trans ⟨rfl, rfl, rfl, rfl⟩, h.request⟩

theorem Returned.completes {ret : RetCode} (h : Returned i s turn n ret response u e) (hs : s.Ready) (hn : n ≤ 255)
    {v : BitVec 16} (hstep : statesOf i u = .next (complete v false {} u)) :
    ∃ t, exec i s = .next t ∧ EndsWith i s t { ret := .ok, outValue := v } response e :=
  h.ends hs hn hstep (h.env ▸ h.endsWith_complete v)

theorem Exchanged.rx_eq (h : Exchanged i s u response) (k : Nat) : rx u k = response.getD k 0x00#8 := h.rxbuf k

/-! ## From the request to the call -/

/-- Operand checks that pass (R342). -/
theorem statesOf_admission (hbus : usesBus i = true) (hprobe : isProbe i = false) (hwrite : isWriteEeprom i = false)
    (hw : i.wellFormed = true) (hseq : s.seq = .admission) : statesOf i s = .next (goto (.build .first) s) := by
  cases i <;> simp_all [usesBus, isProbe, isWriteEeprom, Instr.wellFormed, statesOf, setPosStates, setPosWeakStates,
    setPosWeakKeepStates, readParamStates, writeParamStates, readEepromStates, readEepromRawStates, getIdStates,
    setIdStates]
  case writeParam => intro hk; simp_all [valueInRange, paramRange]

theorem statesOf_build_first (hbus : usesBus i = true) (hcommand : commandBytes s i .first = some command)
    (hseq : s.seq = .build .first) : ∃ f, command = encodeFrame f ∧
      statesOf i s = .next (sendFrame .first f (exLengths (requestOf i).op .first).2 s) := by
  cases i <;> cases hbus <;> cases hcommand <;>
    exact ⟨_, rfl, by simp only [statesOf, setPosStates, setPosWeakStates, setPosWeakKeepStates, readParamStates,
      writeParamStates, readEepromStates, readEepromRawStates, writeEepromStates, isServoAliveStates, getIdStates,
      setIdStates, hseq]; rfl⟩

theorem entryState_of_usesBus (hbus : usesBus i = true) : entryState (requestOf i).op = .admission := by
  cases i <;> cases hbus <;> rfl

theorem belongs_first_of_usesBus (hbus : usesBus i = true) :
    belongs (requestOf i).op (.exchange .first .dirOn) = true := by
  cases i <;> cases hbus <;> rfl

/-- The first EXCHANGE of an operation, called from its last state before (R140). -/
theorem loaded_of_build_first (hbus : usesBus i = true) (hcommand : commandBytes s i .first = some command)
    (htx : s.txbuf.wf = true) {f : Frame} (hf : command = encodeFrame f) :
    Loaded .first command (exLengths (requestOf i).op .first).2
      (sendFrame .first f (exLengths (requestOf i).op .first).2 s) := by
  have hbelongs := belongs_first_of_usesBus hbus
  obtain ⟨bytes, hbytes, hlength⟩ := exists_commandBytes (s := s) hbelongs
  obtain rfl : command = bytes := Option.some.inj (hcommand.symm.trans hbytes)
  obtain ⟨hn, hm⟩ := exLengths_of_belongs hbelongs
  rw [← hlength] at hn
  subst hf
  exact loaded_sendFrame htx hn hm

/-- A well-formed bus operation comes to its first EXCHANGE with its command, no port touched (R140, R342). -/
theorem exists_called_first (hbus : usesBus i = true) (hprobe : isProbe i = false) (hw : i.wellFormed = true)
    (hs : s.Ready) (hcommand : commandBytes s i .first = some command) :
    ∃ u, Called i s .first 3 command (exLengths (requestOf i).op .first).2 u s.env := by
  have hexchanges : ∀ v x, v.seq = .exchange .first x → statesOf i v = exchangeStep .first x v :=
    fun v x hv => statesOf_exchange_first hbus hv
  cases hwrite : isWriteEeprom i with
  | true =>
    cases i <;> cases hwrite
    rename_i id record
    simp only [Instr.wellFormed, Bool.and_eq_true] at hw
    cases hcommand
    exact ⟨_, runs_writeEepromReading hw.1 hw.2 s, hexchanges, loaded_writeEepromReading id record hs,
      underway_writeEepromReading id hw.2 s, rfl⟩
  | false =>
    have hseq : (accept (requestOf i) s).seq = .admission := entryState_of_usesBus hbus
    have hcommand : commandBytes (goto (.build .first) (accept (requestOf i) s)) i .first = some command := by
      rw [← hcommand]
      cases i <;> rfl
    obtain ⟨f, hf, hbuild⟩ := statesOf_build_first hbus hcommand rfl
    have hadmit := Runs.one (by rw [hseq]; decide) (statesOf_admission hbus hprobe hwrite hw hseq) rfl
    obtain ⟨k, hk, hrun⟩ := hadmit.trans (.one (by simp) hbuild rfl)
    exact ⟨_, ⟨k, by omega, hrun⟩, hexchanges, loaded_of_build_first hbus hcommand hs.txWf hf,
      ⟨⟨rfl, rfl, rfl, rfl⟩, rfl, rfl⟩, rfl⟩

end

end Sys2Proof
end

section
/-!
SUPPORT. The bus operations that end with their first exchange, answered in full (R181 to R183, R202, R203, R291,
R292, R320, R321).
-/

namespace Sys2Proof

open Machine

section

variable {i : Instr} {s u : State} {turn : Turn} {n : Nat} {response : List Byte} {o : Offer} {e : Env}

/-! ## The checks of a response that are passed -/

theorem eq_ofInt_of_toNat {b : Byte} {id : Int} (h : (b.toNat : Int) = id) : b = BitVec.ofInt 8 id := by
  rw [← h, BitVec.ofInt_natCast, BitVec.ofNat_toNat, BitVec.setWidth_eq]

/-- A position response with the id asked for gives its position (R93, R104). -/
theorem Returned.positionResponse_eq (h : Returned i s turn n .ok response u e) {id : Int}
    (hid : ((response.getD 0 0x00#8 &&& 0x7F#8).toNat : Int) = id) :
    positionResponse id u = .ok (((response.getD 1 0x00#8).toNat <<< 7) + (response.getD 2 0x00#8).toNat) := by
  simp only [positionResponse, exchangeResult, h.exRet, if_true, h.rx_eq, decodedPosition, checkHdr,
    if_pos (eq_ofInt_of_toNat hid)]
  rfl

/-- A parameter response with the header and sub-code asked for gives its byte (R94). -/
theorem Returned.readResponse_eq {id : Int} {sc v : Byte}
    (h : Returned i s turn n .ok [0x20#8 ||| BitVec.ofInt 8 id, sc, v] u e) : readResponse id sc u = .ok v := by
  simp only [readResponse, exchangeResult, h.exRet, if_true, h.rx_eq, List.getD_cons_zero, List.getD_cons_succ,
    checkHdr_self, checkSc]
  rfl

theorem Returned.writeResponse_eq {id : Int} {sc v : Byte}
    (h : Returned i s turn n .ok [0x40#8 ||| BitVec.ofInt 8 id, sc, v] u e) : writeResponse id sc u = .ok () := by
  simp only [writeResponse, exchangeResult, h.exRet, if_true, h.rx_eq, List.getD_cons_zero, List.getD_cons_succ,
    checkHdr_self, checkSc]
  rfl

/-! ## The frames of the mnemonics (R113) -/

theorem usesBus_of_readOperands {id : Int} {kind : ParamKind} (h : readOperands i = some (id, kind)) :
    usesBus i = true ∧ isProbe i = false ∧ (exLengths (requestOf i).op .first).2 = 3 := by
  cases i <;> cases h <;> exact ⟨rfl, rfl, rfl⟩

theorem usesBus_of_writeOperands {id value : Int} {kind : ParamKind} (h : writeOperands i = some (id, kind, value)) :
    usesBus i = true ∧ isProbe i = false ∧ (exLengths (requestOf i).op .first).2 = 3 := by
  cases i <;> cases h <;> exact ⟨rfl, rfl, rfl⟩

theorem wellFormed_of_readOperands {id : Int} {kind : ParamKind} (h : readOperands i = some (id, kind))
    (hid : idInRange id = true) (hk : kind ≠ .eeprom) : i.wellFormed = true := by
  cases i <;> cases h <;> simp [Instr.wellFormed, hid, hk]

theorem wellFormed_of_writeOperands {id value : Int} {kind : ParamKind} (h : writeOperands i = some (id, kind, value))
    (hid : idInRange id = true) (hv : valueInRange kind value = true) : i.wellFormed = true := by
  cases i <;> cases h <;> simp [Instr.wellFormed, hid, hv]

theorem commandBytes_of_readOperands {id : Int} {kind : ParamKind} (h : readOperands i = some (id, kind)) (s : State) :
    commandBytes s i .first = some (encodeFrame (.readParam (idBits id) (subcode s.params.subcodes kind))) := by
  cases i <;> cases h <;> rfl

theorem commandBytes_of_writeOperands {id value : Int} {kind : ParamKind}
    (h : writeOperands i = some (id, kind, value)) (s : State) : commandBytes s i .first =
      some (encodeFrame (.writeParam (idBits id) (subcode s.params.subcodes kind) (valueBits value))) := by
  cases i <;> cases h <;> rfl

theorem statesOf_of_readOperands {id : Int} {kind : ParamKind} (h : readOperands i = some (id, kind)) :
    statesOf i = readParamStates id kind := by
  cases i <;> cases h <;> rfl

theorem statesOf_of_writeOperands {id value : Int} {kind : ParamKind} (h : writeOperands i = some (id, kind, value)) :
    statesOf i = writeParamStates id kind value := by
  cases i <;> cases h <;> rfl

end

/-! ## Positions -/

/-- The checks of SET_POS and SET_POS_WEAK (R181, R182). -/
theorem statesOf_check_position {i : Instr} {id : Int} {u : State}
    (hi : (∃ pos, i = .setPos id pos) ∨ i = .setPosWeak id)
    (hseq : u.seq = .check .first) : statesOf i u = .next (finishPosition id u) := by
  rcases hi with ⟨pos, rfl⟩ | rfl <;> simp [statesOf, setPosStates, setPosWeakStates, hseq]

/-- A position of two bytes loses nothing in OUT_VALUE's sixteen bits (R104). -/
theorem position_toNat (b1 b2 : Byte) :
    (BitVec.ofNat 16 ((b1.toNat <<< 7) + b2.toNat)).toNat = (b1.toNat <<< 7) + b2.toNat := by
  have h1 := b1.isLt
  have h2 := b2.isLt
  rw [BitVec.toNat_ofNat, Nat.shiftLeft_eq]
  exact Nat.mod_eq_of_lt (by omega)

/-- Settles O15: the checks pass and give the position (`Returned.positionResponse_eq`). -/
theorem positionOperationsReturnTheEcho : Obligations.PositionOperationsReturnTheEcho := by
  intro i id pos s o e b0 b1 b2 hi hid hs ho hresponse hb0 he
  obtain ⟨hkind, hbus, hprobe, hw, hcommand, hlength⟩ : ((∃ pos, i = .setPos id pos) ∨ i = .setPosWeak id) ∧
      usesBus i = true ∧ isProbe i = false ∧ i.wellFormed = true ∧
      commandBytes s i .first = some (encodeFrame (.position (idBits id) (posBits pos))) ∧
      (exLengths (requestOf i).op .first).2 = 3 := by
    rcases hi with ⟨rfl, hpos⟩ | ⟨rfl, rfl⟩
    · exact ⟨.inl ⟨pos, rfl⟩, rfl, rfl, by simp [Instr.wellFormed, hid, hpos], rfl, rfl⟩
    · exact ⟨.inr rfl, rfl, rfl, hid, rfl, rfl⟩
  obtain ⟨u, hcalled⟩ := exists_called_first hbus hprobe hw hs hcommand
  rw [hlength] at hcalled
  have hreturned := hcalled.done ho (by rw [hresponse]; rfl) he
  rw [hresponse] at hreturned
  have hcheck := statesOf_check_position hkind hreturned.seq
  rw [finishPosition, hreturned.positionResponse_eq hb0, checked_ok] at hcheck
  obtain ⟨t, ht, hends⟩ := hreturned.completes hs (by decide) hcheck
  exact ⟨t, _, ht, position_toNat b1 b2, hends⟩

/-- Settles O17: the checks pass, and the sample does not fit format P (R183). -/
theorem weakKeepRefusesAnUnencodableSample : Obligations.WeakKeepRefusesAnUnencodableSample := by
  intro id s o e a0 a1 a2 hid hs ho hresponse ha0 hbig he
  obtain ⟨u, hcalled⟩ := exists_called_first (i := .setPosWeakKeep id) rfl rfl hid hs rfl
  have hreturned := hcalled.done ho (by rw [hresponse]; rfl) he
  rw [hresponse] at hreturned
  generalize exchangeDone .first _ o e u = v at hreturned
  have hstep : statesOf (.setPosWeakKeep id) v = .next (raiseFail .returnDataWrong
      { v with latch := { v.latch with keepPos := BitVec.ofNat 16 ((a1.toNat <<< 7) + a2.toNat) } }) := by
    simp only [statesOf, setPosWeakKeepStates, hreturned.seq, hreturned.positionResponse_eq ha0, checked_ok, sampleKeep]
    exact congrArg Micro.next (if_pos hbig)
  have hkept : Exchanged (.setPosWeakKeep id) s
      { v with latch := { v.latch with keepPos := BitVec.ofNat 16 ((a1.toNat <<< 7) + a2.toNat) } } [a0, a1, a2] :=
    ⟨hreturned.congr ⟨rfl, rfl, rfl, rfl⟩ rfl rfl, hreturned.dir, hreturned.txbuf, hreturned.rxbuf⟩
  exact hreturned.ends hs (by decide) hstep (hreturned.env ▸ hkept.endsWith_raiseFail _)

/-! ## Parameters -/

/-- Settles O18: the mnemonics are READ_PARAM's states (R113), whose checks pass and give the byte. -/
theorem parameterReadsReturnTheByte : Obligations.ParameterReadsReturnTheByte := by
  intro i id kind s o e v hi hid hk hs ho hresponse he
  obtain ⟨hbus, hprobe, hlength⟩ := usesBus_of_readOperands hi
  obtain ⟨u, hcalled⟩ := exists_called_first hbus hprobe (wellFormed_of_readOperands hi hid hk) hs
    (commandBytes_of_readOperands hi s)
  rw [hlength] at hcalled
  have hreturned := hcalled.done ho (by rw [hresponse]; rfl) he
  rw [hresponse] at hreturned ⊢
  refine hreturned.completes hs (by decide) ?_
  rw [statesOf_of_readOperands hi]
  simp only [readParamStates, hreturned.seq, hreturned.config.params, hreturned.readResponse_eq, checked_ok]

/-- Settles O19: the mnemonics are WRITE_PARAM's states (R113), whose checks pass. -/
theorem parameterWritesSendTheValue : Obligations.ParameterWritesSendTheValue := by
  intro i id kind value s o e x hi hid hv hs ho hresponse he
  obtain ⟨hbus, hprobe, hlength⟩ := usesBus_of_writeOperands hi
  obtain ⟨u, hcalled⟩ := exists_called_first hbus hprobe (wellFormed_of_writeOperands hi hid hv) hs
    (commandBytes_of_writeOperands hi s)
  rw [hlength] at hcalled
  have hreturned := hcalled.done ho (by rw [hresponse]; rfl) he
  rw [hresponse] at hreturned ⊢
  refine hreturned.completes hs (by decide) ?_
  rw [statesOf_of_writeOperands hi]
  simp only [writeParamStates, hreturned.seq, hreturned.config.params, hreturned.writeResponse_eq, checked_ok]
  rfl

/-! ## Blocks -/

/-- READ_EEPROM and IS_SERVO_ALIVE behind their checks, the block decoded (R291, R322). -/
def blockDecoded (u : State) : State := goto .validateBlock (decodeBlock (goto .decodeBlock u))

theorem runs_blockDecoded {id : Int} {u : State} (hseq : u.seq = .check .first)
    (hcheck : blockResponse id u = .ok ()) : Runs (statesOf (.readEeprom id)) (1 + 1) u (blockDecoded u) := by
  have hblock : statesOf (.readEeprom id) u = .next (goto .decodeBlock u) := by
    simp only [statesOf, readEepromStates, hseq, hcheck, checked_ok]
  exact (Runs.one (by simp [hseq]) hblock rfl).trans (.one (by simp) rfl rfl)

/-- The record READ_EEPROM validates is the one the response holds (R234, R291). -/
theorem Exchanged.decoded_record {i : Instr} {s u : State} {response : List Byte} (h : Exchanged i s u response)
    (hlen : response.length = 66) : (blockDecoded u).latch.record =
      decodeRecord s.params.layout s.params.flagBits response := by
  rw [← h.rxBlock_eq hlen, ← h.config.params]
  rfl

theorem Exchanged.decoded {i : Instr} {s u : State} {response : List Byte} (h : Exchanged i s u response) :
    Exchanged i s (blockDecoded u) response :=
  ⟨h.congr ⟨rfl, rfl, rfl, rfl⟩ rfl rfl, h.dir, h.txbuf, h.rxbuf⟩

/-- The end of an operation that has validated a record (R271, R343, R344). -/
theorem Exchanged.endsWith_validated {i : Instr} {s u : State} {response : List Byte} (h : Exchanged i s u response)
    (r : EepromRecord) :
    EndsWith i s (complete 0 false r (validate .read r u))
      { ret := .ok, outRec := r, invalidMask := invalidMask .read r } response u.env ∧
    EndsWith i s (raiseFail .eepromDataWrong (validate .read r u))
      { ret := .eepromDataWrong, invalidMask := invalidMask .read r } response u.env :=
  ⟨⟨rfl, h.dir, h.txbuf, h.rxbuf, rfl, rfl, h.config.trans ⟨rfl, rfl, rfl, rfl⟩, h.request⟩,
    ⟨rfl, h.dir, h.txbuf, h.rxbuf, rfl, rfl, h.config.trans ⟨rfl, rfl, rfl, rfl⟩, h.request⟩⟩

theorem statesOf_readEeprom_validateBlock {id : Int} {u : State} (hseq : u.seq = .validateBlock) :
    statesOf (.readEeprom id) u = .next (if recordOk .read u.latch.record then
      complete 0 false u.latch.record (validate .read u.latch.record u) else
      raiseFail .eepromDataWrong (validate .read u.latch.record u)) := by
  simp only [statesOf, readEepromStates, hseq]

/-- Settles O20: the block's checks pass, it is decoded and validated, and ends the operation either way (R291). -/
theorem readEepromDecodesTheBlock : Obligations.ReadEepromDecodesTheBlock := by
  intro id s o e hid hs ho hlen hcheck he
  obtain ⟨u, hcalled⟩ := exists_called_first (i := .readEeprom id) rfl rfl hid hs rfl
  have hreturned := hcalled.done ho hlen he
  generalize exchangeDone .first _ o e u = v at hreturned
  have hrun := runs_blockDecoded hreturned.seq ((hreturned.blockResponse_eq hreturned.exRet id).trans hcheck)
  have hrecord := hreturned.decoded_record hlen
  have henv : (blockDecoded v).env = v.env := rfl
  have hseq : (blockDecoded v).seq = .validateBlock := rfl
  have hdecoded := hreturned.decoded
  generalize blockDecoded v = w at hrun hrecord henv hseq hdecoded
  obtain ⟨hgood, hbad⟩ := hdecoded.endsWith_validated w.latch.record
  rw [henv, hreturned.env] at hgood hbad
  have hstep := statesOf_readEeprom_validateBlock (id := id) hseq
  dsimp only
  rw [← hrecord]
  cases hok : recordOk .read w.latch.record with
  | true =>
    rw [if_pos hok] at hstep
    rw [show invalidMask .read w.latch.record = 0 from of_decide_eq_true hok] at hgood
    exact hreturned.ends_of_runs hs (hrun.trans (.one (by simp [hseq]) hstep rfl)) (by decide) hgood
  | false =>
    rw [if_neg (by simp [hok])] at hstep
    exact hreturned.ends_of_runs hs (hrun.trans (.one (by simp [hseq]) hstep rfl)) (by decide) hbad

/-- Settles O21: the block's checks pass, and nothing else is looked at (R292). -/
theorem rawReadReturnsTheBlock : Obligations.RawReadReturnsTheBlock := by
  intro id s o e hid hs ho hlen hcheck he
  obtain ⟨u, hcalled⟩ := exists_called_first (i := .readEepromRaw id) rfl rfl hid hs rfl
  have hreturned := hcalled.done ho hlen he
  refine hreturned.completes hs (by decide) ?_
  simp only [statesOf, readEepromRawStates, hreturned.seq, hreturned.blockResponse_eq hreturned.exRet, hcheck,
    checked_ok]
  rfl

/-! ## Ids -/

theorem checkIdKind_append (id : BitVec 5) : checkIdKind (0b111#3 ++ id) = .ok () := by
  have hkind : ∀ id : BitVec 5, (0b111#3 ++ id) >>> 5 = 0b111#8 := by decide
  exact if_pos (hkind id)

theorem idBits_of_append : ∀ id : BitVec 5, (0b111#3 ++ id) &&& 0x1F#8 = id.setWidth 8 := by decide

theorem ofInt_eq_idBits {id : Int} (hid : idInRange id = true) : BitVec.ofInt 8 id = (idBits id).setWidth 8 := by
  have h := idInRange_iff.mp hid
  refine BitVec.eq_of_toNat_eq ?_
  rw [BitVec.toNat_setWidth, idBits_toNat hid, BitVec.toNat_ofInt]
  omega

/-- Settles O25: the kind bits pass, and the id bits are the value (R98, R320). -/
theorem getIdReturnsTheIdBits : Obligations.GetIdReturnsTheIdBits := by
  intro s o e id hs ho hresponse he
  obtain ⟨u, hcalled⟩ := exists_called_first (i := .getId) rfl rfl rfl hs rfl
  have hreturned := hcalled.done ho (by rw [hresponse]; rfl) he
  rw [hresponse] at hreturned ⊢
  refine hreturned.completes hs (by decide) ?_
  have hcheck : idReadResponse (exchangeDone .first (encodeFrame .readId) o e u) = .ok (id.setWidth 8) := by
    simp only [idReadResponse, exchangeResult, hreturned.exRet, if_true, hreturned.rx_eq, List.getD_cons_zero,
      checkIdKind_append, idBits_of_append]
    rfl
  have hvalue : ∀ id : BitVec 5, (id.setWidth 8).setWidth 16 = id.setWidth 16 := by decide
  simp only [statesOf, getIdStates, hreturned.seq, hcheck, checked_ok, hvalue]

/-- Settles O26: the kind bits pass, and so does the echo of the id (R99, R321). -/
theorem setIdAcceptsItsEcho : Obligations.SetIdAcceptsItsEcho := by
  intro id s o e hid hs ho hresponse he
  have hframe : encodeFrame (.writeId (idBits id)) = [0xE0#8 ||| BitVec.ofInt 8 id, 0x01#8, 0x01#8, 0x01#8] := by
    have hbyte : ∀ id : BitVec 5, 0b111#3 ++ id = 0xE0#8 ||| id.setWidth 8 := by decide
    rw [encodeFrame, hbyte, ofInt_eq_idBits hid]
  obtain ⟨u, hcalled⟩ := exists_called_first (i := .setId id) rfl rfl hid hs rfl
  have hreturned := hcalled.done ho (by rw [hresponse]; rfl) he
  rw [hresponse] at hreturned ⊢
  rw [← hframe]
  refine hreturned.completes hs (by decide) ?_
  have hcheck : idWriteResponse id (exchangeDone .first (encodeFrame (.writeId (idBits id))) o e u) = .ok () := by
    have hecho : (((idBits id).setWidth 8).toNat : Int) = id := by
      rw [BitVec.toNat_setWidth, Nat.mod_eq_of_lt (by have := (idBits id).isLt; omega), idBits_cast hid]
    simp only [idWriteResponse, exchangeResult, hreturned.exRet, if_true, hreturned.rx_eq, List.getD_cons_zero,
      checkIdKind_append, checkIdEcho, idBits_of_append, if_pos hecho]
    rfl
  simp only [statesOf, setIdStates, hreturned.seq, hcheck, checked_ok]
  rfl

end Sys2Proof
end

section
/-!
SUPPORT. A first response that fails a check, and a second exchange (R100, R181 to R183, R293, R344).
-/

namespace Sys2Proof

open Machine

/-! ## The checks of a first response -/

/-- The checks an operation makes of the bytes of its first response, in their order (R93 to R100). -/
def firstChecks (c : Subcodes) (i : Instr) (b : Nat → Byte) : Except RetCode Unit :=
  if isIdFrame i then do
    checkIdKind (b 0)
    match idOperand i with
    | some id => checkIdEcho (b 0) id
    | none => pure ()
  else do
    checkHdr (b 0) ((responseKind i).2 ||| BitVec.ofInt 8 ((idOperand i).getD 0)) ((responseKind i).1 ||| 0x1F#8)
    match responseSubcode c i with
    | some sc => checkSc (b 1) sc
    | none => pure ()
    if readsBlock i then checkMarker (b 2) (b 3) else pure ()

section

variable {i : Instr} {s u : State} {c : RetCode}

/-- A response's checks end the operation with the code of the one that fails, whatever value they would give. -/
theorem checked_of_error {α : Type} {r : Except RetCode α} {next : α → State → State}
    (h : (r >>= fun _ => pure ()) = .error c) : checked r next u = raiseFail c u := by
  cases r with
  | ok a => cases h
  | error d =>
    obtain rfl : d = c := by cases h; rfl
    rfl

/-- An EXCHANGE that failed, or a check that does, ends any operation but IS_SERVO_ALIVE (R344). -/
theorem statesOf_check_first_error (hbus : usesBus i = true) (hprobe : isProbe i = false) (hseq : u.seq = .check .first)
    (h : (exchangeResult u >>= fun _ => firstChecks u.params.subcodes i (rx u)) = .error c) :
    statesOf i u = .next (raiseFail c u) := by
  cases i <;> cases hbus <;> cases hprobe <;>
    simp only [statesOf, setPosStates, setPosWeakStates, setPosWeakKeepStates, readParamStates, writeParamStates,
      readEepromStates, readEepromRawStates, writeEepromStates, getIdStates, setIdStates, hseq, finishPosition] <;>
    refine congrArg Micro.next (checked_of_error (h ▸ ?_)) <;>
    simp [positionResponse, readResponse, writeResponse, blockResponse, idReadResponse, idWriteResponse, firstChecks,
      isIdFrame, responseKind, idOperand, responseSubcode, readsBlock, readOperands, writeOperands]

/-! ## Which check fails -/

theorem bool_and_or_eq_iff : ∀ b k l v w : Bool, (k && l) = false → (v && k) = v → (w && l) = w →
    ((b && (k || l)) = (v || w) ↔ (b && k) = v ∧ (b && l) = w) ∧ ((v || w) && l) = w := by decide

/-- A comparison under both masks is one under each (R100). -/
theorem and_or_eq_iff {b k l v w : Byte} (hkl : k &&& l = 0#8) (hv : v &&& k = v) (hw : w &&& l = w) :
    (b &&& (k ||| l) = v ||| w ↔ b &&& k = v ∧ b &&& l = w) ∧ (v ||| w) &&& l = w := by
  have hbit : ∀ j, ((b &&& (k ||| l)).getLsbD j = (v ||| w).getLsbD j ↔
      (b &&& k).getLsbD j = v.getLsbD j ∧ (b &&& l).getLsbD j = w.getLsbD j) ∧
      ((v ||| w) &&& l).getLsbD j = w.getLsbD j := fun j => by
    have h1 := congrArg (fun x : Byte => x.getLsbD j) hkl
    have h2 := congrArg (fun x : Byte => x.getLsbD j) hv
    have h3 := congrArg (fun x : Byte => x.getLsbD j) hw
    simp only [BitVec.getLsbD_and, BitVec.getLsbD_or, BitVec.getLsbD_zero] at h1 h2 h3 ⊢
    exact bool_and_or_eq_iff _ _ _ _ _ h1 h2 h3
  refine ⟨⟨fun h => ?_, fun ⟨h1, h2⟩ => ?_⟩, BitVec.eq_of_getLsbD_eq fun j _ => (hbit j).2⟩
  · have hj := fun j => (hbit j).1.mp (by rw [h])
    exact ⟨BitVec.eq_of_getLsbD_eq fun j _ => (hj j).1, BitVec.eq_of_getLsbD_eq fun j _ => (hj j).2⟩
  · exact BitVec.eq_of_getLsbD_eq fun j _ => (hbit j).1.mpr ⟨by rw [h1], by rw [h2]⟩

theorem ofInt_and_idMask {id : Int} (hid : idInRange id = true) : BitVec.ofInt 8 id &&& 0x1F#8 = BitVec.ofInt 8 id := by
  have hmask : ∀ x : BitVec 5, x.setWidth 8 &&& 0x1F#8 = x.setWidth 8 := by decide
  rw [ofInt_eq_idBits hid, hmask]

/-- The id bits are the id asked for, as a number (R90). -/
theorem idBits_eq_iff {b : Byte} {id : Int} (hid : idInRange id = true) :
    b &&& 0x1F#8 = BitVec.ofInt 8 id ↔ ((b &&& 0x1F#8).toNat : Int) = id := by
  refine ⟨fun h => ?_, eq_ofInt_of_toNat⟩
  have hlt := (idBits id).isLt
  rw [h, ofInt_eq_idBits hid, BitVec.toNat_setWidth, Nat.mod_eq_of_lt (by omega), idBits_cast hid]

/-- The header check: the id bits first, then the kind bits (R100, D3). -/
theorem checkHdr_eq {b k v : Byte} {id : Int} (hid : idInRange id = true) (hk : k &&& 0x1F#8 = 0#8)
    (hv : v &&& k = v) : checkHdr b (v ||| BitVec.ofInt 8 id) (k ||| 0x1F#8) =
      if ((b &&& 0x1F#8).toNat : Int) = id then (if b &&& k = v then .ok () else .error .returnDataWrong)
      else .error .idMismatch := by
  obtain ⟨hiff, hexpect⟩ := and_or_eq_iff (b := b) hk hv (ofInt_and_idMask hid)
  simp only [checkHdr, hiff, hexpect, idBits_eq_iff hid, ne_eq]
  split_ifs <;> simp_all

theorem responseKind_masked (i : Instr) :
    (responseKind i).1 &&& 0x1F#8 = 0#8 ∧ (responseKind i).2 &&& (responseKind i).1 = (responseKind i).2 := by
  cases i <;> simp [responseKind, isIdFrame, writeOperands]

theorem exists_idOperand (hbus : usesBus i = true) (hframe : isIdFrame i = false) : ∃ id, idOperand i = some id := by
  cases i <;> cases hbus <;> cases hframe <;> exact ⟨_, rfl⟩

/-- The checks of a response that is no id frame's: the header, the sub-code, the marker (R93 to R97, R100). -/
theorem firstChecks_eq (c : Subcodes) (b : Nat → Byte) (hframe : isIdFrame i = false) {id : Int}
    (hid : idOperand i = some id) (hw : i.wellFormed = true) : firstChecks c i b =
      if ((b 0 &&& 0x1F#8).toNat : Int) = id then
        if b 0 &&& (responseKind i).1 = (responseKind i).2 then do
          match responseSubcode c i with
          | some sc => checkSc (b 1) sc
          | none => pure ()
          if readsBlock i then checkMarker (b 2) (b 3) else pure ()
        else .error .returnDataWrong
      else .error .idMismatch := by
  obtain ⟨hk, hv⟩ := responseKind_masked i
  simp only [firstChecks, hframe, hid, Option.getD_some, checkHdr_eq (idInRange_of_wellFormed hid hw) hk hv,
    Bool.false_eq_true, if_false]
  split_ifs <;> rfl

theorem checkIdKind_eq : ∀ b : Byte,
    checkIdKind b = if b &&& 0xE0#8 = 0xE0#8 then .ok () else .error .returnDataWrong := by
  have hbits : ∀ b : BitVec 8, b >>> 5 = 0b111#8 ↔ b &&& 0xE0#8 = 0xE0#8 := by decide
  intro b
  simp only [checkIdKind, hbits]

/-- The checks of an id frame's response: the kind before the id (R98, R99, D36). -/
theorem firstChecks_idFrame (c : Subcodes) (b : Nat → Byte) (hframe : isIdFrame i = true) : firstChecks c i b =
    if b 0 &&& (responseKind i).1 = (responseKind i).2 then
      match idOperand i with
      | some id => checkIdEcho (b 0) id
      | none => pure ()
    else .error .returnDataWrong := by
  have hkind : responseKind i = (0xE0#8, 0xE0#8) := by cases i <;> cases hframe <;> rfl
  simp only [firstChecks, hframe, if_true, checkIdKind_eq, hkind]
  split_ifs <;> rfl

theorem not_isIdFrame_of_responseSubcode {c : Subcodes} {sc : Byte} (h : responseSubcode c i = some sc) :
    isIdFrame i = false := by
  cases i with
  | getId | setId => cases h
  | _ => rfl

theorem responseSubcode_of_readsBlock (c : Subcodes) (h : readsBlock i = true) :
    isIdFrame i = false ∧ responseSubcode c i = some 0x00#8 := by
  cases i <;> cases h <;> exact ⟨rfl, rfl⟩

/-- A complete first response that fails a check ends the operation with its code (R344). -/
theorem Returned.fails_first {n : Nat} {response : List Byte} {e : Env}
    (h : Returned i s .first n .ok response u e) (hs : s.Ready) (hn : n ≤ 255) (hbus : usesBus i = true)
    (hprobe : isProbe i = false)
    (hcheck : firstChecks s.params.subcodes i (fun k => response.getD k 0x00#8) = .error c) :
    ∃ t, exec i s = .next t ∧ EndsWith i s t { ret := c } response e := by
  have hrx : rx u = fun k => response.getD k 0x00#8 := funext h.rx_eq
  refine h.fails hs hn (statesOf_check_first_error hbus hprobe h.seq ?_)
  rw [exchangeResult, if_pos h.exRet, h.config.params, hrx]
  exact hcheck

end

/-- Settles O27: the first failing check of the response decides the code (`firstChecks_eq`, `firstChecks_idFrame`), and
the operation ends with it (`Returned.fails_first`). -/
theorem failedResponseCheckEndsTheOperation : Obligations.FailedResponseCheckEndsTheOperation := by
  intro i s o e command hbus hprobe hw hs ho hcommand hlength he
  obtain ⟨u, hcalled⟩ := exists_called_first hbus hprobe hw hs hcommand
  have hends := fun c => (hcalled.done ho hlength he).fails_first (c := c) hs (by decide) hbus hprobe
  rw [← hlength] at hends
  dsimp only
  refine ⟨fun hframe => ?_, fun hframe => ?_, fun sc hsc hidRight hkind hne => ?_,
    fun hblock hidRight hkind hb1 hmarker => ?_⟩
  · obtain ⟨id, hid⟩ := exists_idOperand hbus hframe
    have hchecks := firstChecks_eq s.params.subcodes (fun k => o.response.getD k 0x00#8) hframe hid hw
    refine ⟨fun hwrong => hends _ ?_, fun hright hkind => hends _ ?_⟩
    · rw [hchecks, if_neg]
      exact fun hright => hwrong fun id' hid' => Option.some.inj (hid.symm.trans hid') ▸ hright
    · rw [hchecks, if_pos (hright id hid), if_neg hkind]
  · have hchecks := firstChecks_idFrame s.params.subcodes (fun k => o.response.getD k 0x00#8) hframe
    refine ⟨fun hkind => hends _ ?_, fun hkind hwrong => hends _ ?_⟩
    · rw [hchecks, if_neg hkind]
    · obtain ⟨id, hid, hne⟩ : ∃ id, idOperand i = some id ∧
          ¬ ((o.response.getD 0 0x00#8 &&& 0x1F#8).toNat : Int) = id := by
        simpa using hwrong
      rw [hchecks, if_pos hkind, hid]
      exact if_neg hne
  · obtain ⟨id, hid⟩ := exists_idOperand hbus (not_isIdFrame_of_responseSubcode hsc)
    refine hends _ ?_
    rw [firstChecks_eq _ _ (not_isIdFrame_of_responseSubcode hsc) hid hw, if_pos (hidRight id hid), if_pos hkind, hsc]
    simp only [checkSc, if_neg hne]
    rfl
  · obtain ⟨hframe, hsc⟩ := responseSubcode_of_readsBlock s.params.subcodes hblock
    obtain ⟨id, hid⟩ := exists_idOperand hbus hframe
    have hfails : checkMarker (o.response.getD 2 0x00#8) (o.response.getD 3 0x00#8) = .error .eepromDataWrong :=
      if_neg hmarker
    refine hends _ ?_
    rw [firstChecks_eq _ _ hframe hid hw, if_pos (hidRight id hid), if_pos hkind, hsc, hblock]
    simp only [checkSc, if_pos hb1, if_true, hfails]
    rfl

end Sys2Proof
end

section
/-!
SUPPORT. The second exchange of SET_POS_WEAK_KEEP and of WRITE_EEPROM (R183, R293).
-/

namespace Sys2Proof

open Machine

section

variable {i : Instr} {id : Int} {s u : State} {n : Nat} {response : List Byte} {e : Env} {c : RetCode}

/-! ## The call -/

/-- A sample format P can carry is re-commanded as it is (R103, R183). -/
theorem posBits_sample {v : BitVec 14} {p : Nat} (hv : v.toNat = p) :
    p ≤ 16383 ∧ posBits ((BitVec.ofNat 16 p).toNat : Int) = v := by
  have hlt := v.isLt
  refine ⟨by omega, BitVec.eq_of_toNat_eq ?_⟩
  rw [posBits_toNat (by omega) (by rw [BitVec.toNat_ofNat]; omega), Int.toNat_natCast, BitVec.toNat_ofNat]
  omega

/-- SET_POS_WEAK_KEEP with the sample's frame in TXBUF (R183). -/
def weakKeepRecommanding (id : Int) (p : Nat) (u : State) : State :=
  sendFrame .second (.position (idBits id) (posBits (BitVec.ofNat 16 p).toNat)) 3
    (goto (.build .second) { u with latch := { u.latch with keepPos := BitVec.ofNat 16 p } })

/-- A sample taken comes to the second call (R183). -/
theorem Returned.called_weakKeep (h : Returned (.setPosWeakKeep id) s .first n .ok response u e)
    (hb0 : ((response.getD 0 0x00#8 &&& 0x7F#8).toNat : Int) = id) {v : BitVec 14}
    (hv : v.toNat = ((response.getD 1 0x00#8).toNat <<< 7) + (response.getD 2 0x00#8).toNat) :
    Called (.setPosWeakKeep id) s .second (n + (1 + 1)) (encodeFrame (.position (idBits id) v)) 3
      (weakKeepRecommanding id v.toNat u) e := by
  obtain ⟨hfits, hbits⟩ := posBits_sample (v := v) rfl
  have hkeep : statesOf (.setPosWeakKeep id) u = .next (goto (.build .second)
      { u with latch := { u.latch with keepPos := BitVec.ofNat 16 v.toNat } }) := by
    simp only [statesOf, setPosWeakKeepStates, h.seq, h.positionResponse_eq hb0, checked_ok, sampleKeep, ← hv]
    exact congrArg Micro.next (if_neg (Nat.not_lt.mpr hfits))
  refine ⟨h.runs.trans ((Runs.one (by simp [h.seq]) hkeep rfl).trans (.one (by simp) rfl rfl)),
    fun _ _ hw => statesOf_exchange_second rfl hw, ?_, h.congr ⟨rfl, rfl, rfl, rfl⟩ rfl rfl, h.env⟩
  rw [weakKeepRecommanding, hbits]
  refine loaded_sendFrame ?_ (by simp [encodeFrame, bufLen]) (by decide)
  rw [goto_txbuf, h.txbuf]
  rfl

/-- A block read comes to the second call (R293). -/
theorem Returned.called_writeEeprom {record : EepromRecord}
    (h : Returned (.writeEeprom id record) s .first n .ok response u e) (hlen : response.length = 66)
    (hcheck : blockCheck id response = .ok ()) :
    Called (.writeEeprom id record) s .second (n + (1 + 1 + 1))
      (encodeRecord s.params.layout s.params.flagBits record response id) 2 (writeEepromWriting id record u) e :=
  ⟨h.runs.trans (runs_writeEepromWriting h.seq ((h.blockResponse_eq h.exRet id).trans hcheck)),
    writeEeprom_exchange_second id record, loaded_writeEepromWriting h.toExchanged hlen,
    underway_writeEepromWriting h.toUnderway id record, h.env⟩

/-! ## The checks -/

/-- The checks of a second response, in their order (R93, R97, R100). -/
def secondChecks (i : Instr) (b : Nat → Byte) : Except RetCode Unit :=
  match i with
  | .setPosWeakKeep id => checkHdr (b 0) (0x00#8 ||| BitVec.ofInt 8 id) (0x60#8 ||| 0x1F#8)
  | .writeEeprom id _ => do
    checkHdr (b 0) (0x40#8 ||| BitVec.ofInt 8 id) (0xE0#8 ||| 0x1F#8)
    checkSc (b 1) 0x00#8
  | _ => pure ()

theorem statesOf_check_second_error (hi : i = .setPosWeakKeep id ∨ ∃ record, i = .writeEeprom id record)
    (hseq : u.seq = .check .second) (h : (exchangeResult u >>= fun _ => secondChecks i (rx u)) = .error c) :
    statesOf i u = .next (raiseFail c u) := by
  rcases hi with rfl | ⟨record, rfl⟩ <;> simp only [statesOf, setPosWeakKeepStates, writeEepromStates, hseq] <;>
    refine congrArg Micro.next (checked_of_error (h ▸ ?_)) <;>
    simp [positionResponse, blockWriteResponse, secondChecks]

/-- A second exchange that failed ends the operation with EXCHANGE's code (R344). -/
theorem Returned.fails_second_short (h : Returned i s .second n c response u e) (hs : s.Ready) (hn : n ≤ 255)
    (hi : i = .setPosWeakKeep id ∨ ∃ record, i = .writeEeprom id record) (hc : c ≠ .ok) :
    ∃ t, exec i s = .next t ∧ EndsWith i s t { ret := c } response e := by
  refine h.fails hs hn (statesOf_check_second_error hi h.seq ?_)
  rw [exchangeResult, h.exRet, if_neg hc]
  rfl

/-- A complete second response that fails a check ends the operation with its code (R344). -/
theorem Returned.fails_second (h : Returned i s .second n .ok response u e) (hs : s.Ready) (hn : n ≤ 255)
    (hi : i = .setPosWeakKeep id ∨ ∃ record, i = .writeEeprom id record)
    (hcheck : secondChecks i (fun k => response.getD k 0x00#8) = .error c) :
    ∃ t, exec i s = .next t ∧ EndsWith i s t { ret := c } response e := by
  have hrx : rx u = fun k => response.getD k 0x00#8 := funext h.rx_eq
  refine h.fails hs hn (statesOf_check_second_error hi h.seq ?_)
  rw [exchangeResult, if_pos h.exRet, hrx]
  exact hcheck

/-- Which check of a second response fails (R100, D3). -/
theorem secondChecks_error (b : Nat → Byte) (hid : idInRange id = true)
    (hi : i = .setPosWeakKeep id ∨ ∃ record, i = .writeEeprom id record) :
    (((b 0 &&& 0x1F#8).toNat : Int) ≠ id → secondChecks i b = .error .idMismatch) ∧
    (((b 0 &&& 0x1F#8).toNat : Int) = id →
      ((i = .setPosWeakKeep id ∧ b 0 &&& 0x60#8 ≠ 0x00#8) ∨
        (isWriteEeprom i = true ∧ (b 0 &&& 0xE0#8 ≠ 0x40#8 ∨ b 1 ≠ 0x00#8))) →
      secondChecks i b = .error .returnDataWrong) := by
  rcases hi with rfl | ⟨record, rfl⟩ <;>
    simp only [secondChecks, checkHdr_eq (b := b 0) (k := 0x60#8) (v := 0x00#8) hid rfl rfl,
      checkHdr_eq (b := b 0) (k := 0xE0#8) (v := 0x40#8) hid rfl rfl]
  · refine ⟨fun hne => if_neg hne, fun hright hwrong => ?_⟩
    rcases hwrong with ⟨-, hkind⟩ | ⟨hno, -⟩
    · rw [if_pos hright, if_neg hkind]
    · cases hno
  · refine ⟨fun hne => by rw [if_neg hne]; rfl, fun hright hwrong => ?_⟩
    rcases hwrong with ⟨hno, -⟩ | ⟨-, hwrong⟩
    · cases hno
    · by_cases hkind : b 0 &&& 0xE0#8 = 0x40#8
      · rw [if_pos hright, if_pos hkind, checkSc, if_neg (hwrong.resolve_left (not_not_intro hkind))]
        rfl
      · rw [if_pos hright, if_neg hkind]
        rfl

end

/-! ## The obligations -/

/-- The second response of SET_POS_WEAK_KEEP gives the sample kept (R183). -/
theorem statesOf_weakKeep_check_second {id : Int} {s u : State} {n : Nat} {response : List Byte} {e : Env}
    (h : Returned (.setPosWeakKeep id) s .second n .ok response u e)
    (hb0 : ((response.getD 0 0x00#8 &&& 0x7F#8).toNat : Int) = id) :
    statesOf (.setPosWeakKeep id) u = .next (complete u.latch.keepPos false {} u) := by
  simp only [statesOf, setPosWeakKeepStates, h.seq, h.positionResponse_eq hb0, checked_ok]

/-- Settles O16: the sample passes, its frame goes out in the second exchange, and the second response's check passes
(R183). -/
theorem weakKeepRecommandsTheSample : Obligations.WeakKeepRecommandsTheSample := by
  intro id s o1 o2 e a0 a1 a2 b0 b1 b2 v hid hs ho1 ho2 hr1 ha0 hv hmax hr2 hb0 he
  obtain ⟨u, hcalled⟩ := exists_called_first (i := .setPosWeakKeep id) rfl rfl hid hs rfl
  have hsampled := hcalled.done ho1 (by rw [hr1]; rfl) he
  rw [hr1] at hsampled
  have hbits : (posBits v.toNat).toNat = v.toNat := posBits_toNat (by omega) (by omega)
  have hsecond := (hsampled.called_weakKeep ha0 (v := posBits v.toNat) (hbits.trans hv)).done ho2
    (by rw [hr2]; rfl) (before_did _ _ _ _ _)
  rw [hr2] at hsecond
  have hkeep : ∀ command o e u, (exchangeDone .second command o e
      (weakKeepRecommanding id (posBits v.toNat).toNat u)).latch.keepPos = v := fun _ _ _ _ => by
    show BitVec.ofNat 16 (posBits v.toNat).toNat = v
    rw [hbits, BitVec.ofNat_toNat, BitVec.setWidth_eq]
  have hstep := statesOf_weakKeep_check_second hsecond hb0
  rw [hkeep] at hstep
  exact hsecond.completes hs (by decide) hstep

/-- Settles O29: both operations come to their second call (`Returned.called_weakKeep`, `Returned.called_writeEeprom`),
and its failure ends them. -/
theorem secondExchangeFailureIsPropagated : Obligations.SecondExchangeFailureIsPropagated := by
  intro i id s o1 first second m1 m2 hw hs ho1 hlen hop
  have hi : i = .setPosWeakKeep id ∨ ∃ record, i = .writeEeprom id record := by
    rcases hop with ⟨hi, -⟩ | ⟨record, hi, -⟩
    · exact .inl hi
    · exact .inr ⟨record, hi⟩
  have hid : idInRange id = true := idInRange_of_wellFormed (by rcases hi with rfl | ⟨record, rfl⟩ <;> rfl) hw
  have hcalled : ∀ e, s.env = o1.before s.cfgDrain first.length e → ∃ n u, n ≤ 240 ∧
      Called i s .second n second m2 u (e.did (o1.actions s.cfgDrain first m1)) := by
    intro e he
    rcases hop with ⟨rfl, rfl, rfl, hb0, rfl, v, rfl, hv⟩ | ⟨record, rfl, rfl, rfl, hcheck, rfl, rfl⟩
    · obtain ⟨u, hfirst⟩ := exists_called_first (i := .setPosWeakKeep id) rfl rfl hw hs rfl
      exact ⟨_, _, by decide, (hfirst.done ho1 hlen he).called_weakKeep hb0 hv⟩
    · obtain ⟨u, hfirst⟩ := exists_called_first (i := .writeEeprom id record) rfl rfl hw hs rfl
      exact ⟨_, _, by decide, (hfirst.done ho1 hlen he).called_writeEeprom hlen hcheck⟩
  refine ⟨fun w e hlt he => ?_, fun o2 e ho2 he => ?_⟩
  · obtain ⟨n, u, hn, hsecond⟩ := hcalled _ he
    exact (hsecond.shortWrite (ws := e.writes) rfl hlt).fails_second_short hs (by omega) hi (by decide)
  · obtain ⟨n, u, hn, hsecond⟩ := hcalled _ he
    rw [before_did] at hsecond
    obtain ⟨hmismatch, hwrong⟩ := secondChecks_error (fun k => o2.response.getD k 0x00#8) hid hi
    exact ⟨fun hshort => (hsecond.shortRead ho2 hshort rfl).fails_second_short hs (by omega) hi (by decide),
      fun hfull hne => (hsecond.done ho2 hfull rfl).fails_second hs (by omega) hi (hmismatch hne),
      fun hfull hright hbad => (hsecond.done ho2 hfull rfl).fails_second hs (by omega) hi (hwrong hright hbad)⟩

end Sys2Proof
end

section
/-!
SUPPORT. IS_SERVO_ALIVE iteration by iteration (R322), and a short transfer in any first exchange (R341, R346).
-/

namespace Sys2Proof

open Machine

theorem Runs.mono {prog : State → Micro} {c d : Nat} {s t : State} (h : Runs prog c s t) (hcd : c ≤ d) :
    Runs prog d s t := by
  obtain ⟨k, hk, hrun⟩ := h
  exact ⟨k, by omega, hrun⟩

/-! ## What the attempts leave of the outside -/

theorem attempt_before_did (d : Drain) (n : Nat) (a : Attempt) (e : Env) (actions : List PortAction) :
    (a.before d n e).did actions = a.before d n (e.did actions) := by
  cases a with
  | shortWrite w => rfl
  | offer o => exact before_did d n o e actions

theorem attemptsBefore_did (d : Drain) (n : Nat) (as : List Attempt) (e : Env) (actions : List PortAction) :
    (attemptsBefore d n as e).did actions = attemptsBefore d n as (e.did actions) := by
  induction as with
  | nil => rfl
  | cons a as ih => exact (attempt_before_did d n a _ actions).trans (congrArg (a.before d n) ih)

theorem did_did (e : Env) (a b : List PortAction) : (e.did a).did b = e.did (a ++ b) := by
  simp [Env.did]

/-! ## Between the iterations -/

/-- u is s while IS_SERVO_ALIVE is in the state q, having counted so many iterations (R322): what it has found so far,
the mask it would end with, and the outside. -/
structure Probing (id : Int) (s u : State) (q : SeqState) (count : Nat) (alive : Bool) (mask : BitVec 22) (e : Env) :
    Prop where
  seq : u.seq = q
  count : u.latch.aliveI.toNat = count
  alive : u.latch.alive = alive
  mask : finalMask u = mask
  env : u.env = e
  config : SameConfig s u
  request : latchedRequest u = some (requestOf (.isServoAlive id))
  txWf : u.txbuf.wf = true

/-- What an EXCHANGE leaves behind (R143). -/
structure Cleared (u : State) (left : List Byte) : Prop where
  dir : u.dir = false
  txbuf : u.txbuf = memZero
  rxbuf : ∀ a, memRead u.rxbuf a = left.getD a 0x00#8

section

variable {id : Int} {s u : State} {q : SeqState} {k : Nat} {alive : Bool} {mask : BitVec 22} {e : Env} {a : Attempt}
  {left : List Byte}

theorem Cleared.blockResponse_eq (h : Cleared u left) (hret : u.latch.exRet = .ok) (id : Int) :
    blockResponse id u = blockCheck id left := by
  simp only [blockResponse, exchangeResult, hret, if_true, rx, h.rxbuf]
  rfl

theorem Cleared.rxBlock_eq (h : Cleared u left) (hlen : left.length = 66) : rxBlock u = left := by
  have hread : memReadList u.rxbuf 0 left.length = left := memReadList_eq fun k _ => by rw [h.rxbuf, Nat.zero_add]
  rwa [hlen] at hread

/-! ## One exchange -/

/-- The response of the attempt passes ER_CHECK (R96, R296). -/
def Machine.Attempt.passes (id : Int) : Attempt → Bool
  | .shortWrite _ => false
  | .offer o => decide (o.response.length = 66) && (blockCheck id o.response).toBool

/-- IS_SERVO_ALIVE with its read command in TXBUF (R322). -/
def probeReading (id : Int) (u : State) : State :=
  sendFrame .first (.readEeprom (idBits id)) 66 (goto (.build .first) u)

theorem Probing.runs_probeReading (h : Probing id s u .probeLoop k alive mask e) (hk : k < 10) :
    Runs (statesOf (.isServoAlive id)) (1 + 1) u (probeReading id u) := by
  have hlt : u.latch.aliveI < aliveN := BitVec.lt_def.mpr (h.count ▸ hk)
  have hloop : statesOf (.isServoAlive id) u = .next (goto (.build .first) u) := by
    simp only [statesOf, isServoAliveStates, h.seq, if_pos hlt]
  exact (Runs.one (by simp [h.seq]) hloop rfl).trans (.one (by simp) rfl rfl)

theorem Probing.loaded_probeReading (h : Probing id s u q k alive mask e) :
    Loaded .first (encodeFrame (.readEeprom (idBits id))) 66 (probeReading id u) :=
  loaded_sendFrame h.txWf (by simp [encodeFrame, bufLen]) (by decide)

theorem isServoAlive_exchange (id : Int) (u : State) (m : ExState) (hu : u.seq = .exchange .first m) :
    statesOf (.isServoAlive id) u = exchangeStep .first m u :=
  statesOf_exchange_first rfl hu

/-- An iteration comes to its checks, whatever the transport does (R322). -/
theorem Probing.exists_attempted (h : Probing id s u .probeLoop k alive mask (a.before s.cfgDrain 2 e)) (hk : k < 10)
    (ha : a.Possible 2 66) : ∃ v, Runs (statesOf (.isServoAlive id)) 10 u v ∧
      Probing id s v (.check .first) k alive mask
        (e.did (a.actions s.cfgDrain (encodeFrame (.readEeprom (idBits id))) 66)) ∧
      Cleared v (a.left 66) ∧
      (a.passes id = false → ∃ c, blockResponse id v = .error c) ∧
      (a.passes id = true → blockResponse id v = .ok ()) := by
  have hload := h.loaded_probeReading
  have hcall := h.runs_probeReading hk
  have henv : (probeReading id u).env = a.before s.cfgDrain 2 e := h.env
  have hdrain : (probeReading id u).cfgDrain = s.cfgDrain := h.config.cfgDrain
  have hM : (probeReading id u).latch.exM.toNat = 66 := hload.exM
  have hkept : ∀ v : State, v.seq = .check .first → v.latch.aliveI = u.latch.aliveI → v.latch.alive = u.latch.alive →
      finalMask v = finalMask u → SameConfig u v → latchedRequest v = latchedRequest u → v.txbuf = memZero →
      v.env = e.did (a.actions s.cfgDrain (encodeFrame (.readEeprom (idBits id))) 66) →
      Probing id s v (.check .first) k alive mask
        (e.did (a.actions s.cfgDrain (encodeFrame (.readEeprom (idBits id))) 66)) :=
    fun v hseq hcount halive hmask hconfig hrequest htx hv => ⟨hseq, hcount ▸ h.count, halive.trans h.alive,
      hmask.trans h.mask, hv, h.config.trans hconfig, hrequest.trans h.request, htx ▸ rfl⟩
  cases a with
  | shortWrite w =>
    refine ⟨_, (hcall.trans (hload.runs_shortWrite (isServoAlive_exchange id) (w := w) (ws := e.writes)
      (by rw [henv]; rfl) ha)).mono (by decide), hkept _ rfl rfl rfl rfl ⟨rfl, rfl, rfl, rfl⟩ rfl rfl ?_,
      ⟨rfl, rfl, fun _ => rfl⟩, fun _ => ⟨_, blockResponse_of_failed (c := .writeError) rfl (by decide) id⟩,
      fun hno => by cases hno⟩
    simp only [exchangeShortWrite, henv]
    rfl
  | offer o =>
    obtain ⟨ho, hle⟩ := ha
    by_cases hlen : o.response.length = 66
    · have hcleared : Cleared (exchangeDone .first (encodeFrame (.readEeprom (idBits id))) o e (probeReading id u))
          o.response := ⟨rfl, rfl, memRead_memWriteList_memZero hlen.le⟩
      have hcheck := hcleared.blockResponse_eq rfl id
      refine ⟨_, hcall.trans (hload.runs_done (isServoAlive_exchange id) ho hlen (by rw [henv, hdrain]; rfl)),
        hkept _ rfl rfl rfl rfl ⟨rfl, rfl, rfl, rfl⟩ rfl rfl ?_, ?_, fun hfails => ?_, fun hpasses => ?_⟩
      · simp only [exchangeDone, hdrain, hM]
        rfl
      · simpa only [Attempt.left, hlen, if_true] using hcleared
      · cases hblock : blockCheck id o.response with
        | error c => exact ⟨c, hcheck.trans hblock⟩
        | ok a => simp [Attempt.passes, hlen, hblock, Except.toBool] at hfails
      · cases hblock : blockCheck id o.response with
        | error c => simp [Attempt.passes, hblock, Except.toBool] at hpasses
        | ok a => exact hcheck.trans hblock
    · refine ⟨_, hcall.trans (hload.runs_shortRead (isServoAlive_exchange id) ho (lt_of_le_of_ne hle hlen)
        (by rw [henv, hdrain]; rfl)), hkept _ rfl rfl rfl rfl ⟨rfl, rfl, rfl, rfl⟩ rfl rfl ?_, ?_,
        fun _ => ⟨_, blockResponse_of_failed (c := .readError) rfl (by decide) id⟩,
        fun hpasses => by simp [Attempt.passes, hlen] at hpasses⟩
      · simp only [exchangeShortRead, hdrain, hM]
        rfl
      · simp only [Attempt.left, hlen, if_false]
        exact ⟨rfl, rfl, fun _ => rfl⟩

/-! ## The checks of an iteration -/

/-- A failed check ends the iteration, with nothing validated (R322). -/
theorem attempt_of_not_passes (p : Params) (h : a.passes id = false) : a.good p id = false ∧ a.mask p id = none := by
  cases a with
  | shortWrite w => exact ⟨rfl, rfl⟩
  | offer o =>
    simp only [Attempt.passes, Bool.and_eq_false_iff, decide_eq_false_iff_not] at h
    rcases h with h | h <;> simp [Attempt.good, goodProbe, Attempt.mask, h]

/-- A block that passes the checks is decoded and validated (R322). -/
theorem attempt_of_passes (p : Params) (h : a.passes id = true) : ∃ record, (a.left 66).length = 66 ∧
    decodeRecord p.layout p.flagBits (a.left 66) = record ∧ a.mask p id = some (invalidMask .read record) ∧
    a.good p id = (recordOk .read record && decide (record.id = some id)) := by
  cases a with
  | shortWrite w => cases h
  | offer o =>
    simp only [Attempt.passes, Bool.and_eq_true, decide_eq_true_eq] at h
    obtain ⟨hlen, hblock⟩ := h
    exact ⟨decodeRecord p.layout p.flagBits o.response, by simp [Attempt.left, hlen], by simp [Attempt.left, hlen],
      by simp [Attempt.mask, hlen, hblock],
      by simp [Attempt.good, goodProbe, hlen, hblock]⟩

/-- A probe state moves on with its counter, its findings and its buffers as they are. -/
theorem Probing.moves (h : Probing id s u q k alive mask e) {q' : SeqState} {mask' : BitVec 22} {v : State}
    (hseq : v.seq = q') (hcount : v.latch.aliveI = u.latch.aliveI) (halive : v.latch.alive = u.latch.alive)
    (hmask : finalMask v = mask') (henv : v.env = u.env) (hconfig : SameConfig u v)
    (hrequest : latchedRequest v = latchedRequest u) (htx : v.txbuf = u.txbuf) :
    Probing id s v q' k alive mask' e :=
  ⟨hseq, hcount ▸ h.count, halive.trans h.alive, hmask, henv.trans h.env, h.config.trans hconfig,
    hrequest.trans h.request, htx ▸ h.txWf⟩

theorem Cleared.decoded_record (h : Cleared u left) (hlen : left.length = 66) :
    (blockDecoded u).latch.record = decodeRecord u.params.layout u.params.flagBits left := by
  rw [← h.rxBlock_eq hlen]
  rfl

/-- A decoded block comes to its verdict: READ validation, then the stored id (R322). -/
theorem Probing.exists_validated (h : Probing id s u .validateBlock k alive mask e) (hcleared : Cleared u left) :
    ∃ v, Runs (statesOf (.isServoAlive id)) 2 u v ∧ Cleared v left ∧
      Probing id s v (if recordOk .read u.latch.record && decide (u.latch.record.id = some id) then .probeNext
        else .probeFail) k alive (invalidMask .read u.latch.record) e := by
  have hvalidate : statesOf (.isServoAlive id) u = .next (goto (if recordOk .read u.latch.record then .probeCompare
      else .probeFail) (validate .read u.latch.record u)) := by
    simp only [statesOf, isServoAliveStates, h.seq]
  have hrun := Runs.one (by simp [h.seq]) hvalidate rfl
  cases hok : recordOk .read u.latch.record with
  | false =>
    rw [hok] at hrun
    exact ⟨_, hrun.mono (by decide), ⟨hcleared.dir, hcleared.txbuf, hcleared.rxbuf⟩,
      h.moves rfl rfl rfl rfl rfl ⟨rfl, rfl, rfl, rfl⟩ rfl rfl⟩
  | true =>
    rw [hok] at hrun
    have hcompare : statesOf (.isServoAlive id) (goto .probeCompare (validate .read u.latch.record u)) =
        .next (goto (if u.latch.record.id = some id then .probeNext else .probeFail)
          (goto .probeCompare (validate .read u.latch.record u))) := rfl
    refine ⟨_, hrun.trans (.one (by simp) hcompare rfl), ⟨hcleared.dir, hcleared.txbuf, hcleared.rxbuf⟩,
      h.moves ?_ rfl rfl rfl rfl ⟨rfl, rfl, rfl, rfl⟩ rfl rfl⟩
    by_cases hid : u.latch.record.id = some id <;> simp [hid]

/-- The checks of an iteration come to its verdict (R322). -/
theorem Probing.exists_judged (h : Probing id s u (.check .first) k alive mask e) (hcleared : Cleared u (a.left 66))
    (hfails : a.passes id = false → ∃ c, blockResponse id u = .error c)
    (hpasses : a.passes id = true → blockResponse id u = .ok ()) :
    ∃ v, Runs (statesOf (.isServoAlive id)) 4 u v ∧ Cleared v (a.left 66) ∧
      Probing id s v (if a.good s.params id then .probeNext else .probeFail) k alive ((a.mask s.params id).getD mask)
        e := by
  cases hp : a.passes id with
  | false =>
    obtain ⟨c, hc⟩ := hfails hp
    obtain ⟨hgood, hmask⟩ := attempt_of_not_passes s.params hp
    have hstep : statesOf (.isServoAlive id) u = .next (goto .probeFail u) := by
      simp only [statesOf, isServoAliveStates, h.seq, hc]
    rw [hgood, hmask]
    exact ⟨_, (Runs.one (by simp [h.seq]) hstep rfl).mono (by decide), ⟨hcleared.dir, hcleared.txbuf, hcleared.rxbuf⟩,
      h.moves rfl rfl rfl h.mask rfl ⟨rfl, rfl, rfl, rfl⟩ rfl rfl⟩
  | true =>
    obtain ⟨record, hlen, hrecord, hmask, hgood⟩ := attempt_of_passes s.params hp
    have hblock : statesOf (.isServoAlive id) u = .next (goto .decodeBlock u) := by
      simp only [statesOf, isServoAliveStates, h.seq, hpasses hp]
    have hrun : Runs (statesOf (.isServoAlive id)) (1 + 1) u (blockDecoded u) :=
      (Runs.one (by simp [h.seq]) hblock rfl).trans (.one (by simp) rfl rfl)
    have hdecoded : Probing id s (blockDecoded u) .validateBlock k alive mask e :=
      h.moves rfl rfl rfl h.mask rfl ⟨rfl, rfl, rfl, rfl⟩ rfl rfl
    obtain ⟨v, hjudged, hleft, hv⟩ := hdecoded.exists_validated (left := a.left 66)
      ⟨hcleared.dir, hcleared.txbuf, hcleared.rxbuf⟩
    rw [hcleared.decoded_record hlen, h.config.params, hrecord] at hv
    rw [hgood, hmask]
    exact ⟨v, hrun.trans hjudged, hleft, hv⟩

/-! ## One iteration after another -/

theorem Probing.exists_counted (h : Probing id s u .probeNext k alive mask e) (hk : k < 10) (hleft : Cleared u left) :
    ∃ v, Runs (statesOf (.isServoAlive id)) 1 u v ∧ Cleared v left ∧
      Probing id s v .probeLoop (k + 1) alive mask e := by
  have hstep : statesOf (.isServoAlive id) u =
      .next (goto .probeLoop { u with latch := { u.latch with aliveI := u.latch.aliveI + 1 } }) := by
    simp only [statesOf, isServoAliveStates, h.seq]
  have hnext : (u.latch.aliveI + 1).toNat = k + 1 := by
    rw [BitVec.toNat_add, h.count]
    exact Nat.mod_eq_of_lt (by simp; omega)
  exact ⟨_, .one (by simp [h.seq]) hstep rfl, ⟨hleft.dir, hleft.txbuf, hleft.rxbuf⟩, rfl, hnext, h.alive, h.mask,
    h.env, h.config.trans ⟨rfl, rfl, rfl, rfl⟩, h.request, h.txWf⟩

theorem Probing.exists_noted (h : Probing id s u .probeFail k alive mask e) (hleft : Cleared u left) :
    ∃ v, Runs (statesOf (.isServoAlive id)) 1 u v ∧ Cleared v left ∧
      Probing id s v (if s.params.aliveEarlyExit then .probeFinish else .probeNext) k false mask e := by
  have hstep : statesOf (.isServoAlive id) u = .next (goto (if s.params.aliveEarlyExit then .probeFinish
      else .probeNext) { u with latch := { u.latch with alive := false } }) := by
    simp only [statesOf, isServoAliveStates, h.seq, h.config.params]
  exact ⟨_, .one (by simp [h.seq]) hstep rfl, ⟨hleft.dir, hleft.txbuf, hleft.rxbuf⟩, rfl, h.count, rfl, h.mask,
    h.env, h.config.trans ⟨rfl, rfl, rfl, rfl⟩, h.request, h.txWf⟩

/-- An iteration to its verdict (R322). -/
theorem Probing.exists_verdict (h : Probing id s u .probeLoop k alive mask (a.before s.cfgDrain 2 e)) (hk : k < 10)
    (ha : a.Possible 2 66) : ∃ v, Runs (statesOf (.isServoAlive id)) 14 u v ∧ Cleared v (a.left 66) ∧
      Probing id s v (if a.good s.params id then .probeNext else .probeFail) k alive ((a.mask s.params id).getD mask)
        (e.did (a.actions s.cfgDrain (encodeFrame (.readEeprom (idBits id))) 66)) := by
  obtain ⟨v, hrun, hv, hleft, hfails, hpasses⟩ := h.exists_attempted hk ha
  obtain ⟨w, hjudged, hleft, hw⟩ := hv.exists_judged hleft hfails hpasses
  exact ⟨w, hrun.trans hjudged, hleft, hw⟩

/-- An iteration that is good, or that ends no probe, comes to the next one (R322, D18). -/
theorem Probing.exists_iterated (h : Probing id s u .probeLoop k alive mask (a.before s.cfgDrain 2 e)) (hk : k < 10)
    (ha : a.Possible 2 66) (hgoes : a.good s.params id = true ∨ s.params.aliveEarlyExit = false) :
    ∃ v, Runs (statesOf (.isServoAlive id)) 16 u v ∧ Cleared v (a.left 66) ∧
      Probing id s v .probeLoop (k + 1) (alive && a.good s.params id) ((a.mask s.params id).getD mask)
        (e.did (a.actions s.cfgDrain (encodeFrame (.readEeprom (idBits id))) 66)) := by
  obtain ⟨v, hrun, hleft, hv⟩ := h.exists_verdict hk ha
  cases hgood : a.good s.params id with
  | true =>
    rw [hgood, if_pos rfl] at hv
    obtain ⟨w, hcount, hleft, hw⟩ := hv.exists_counted hk hleft
    rw [Bool.and_true]
    exact ⟨w, (hrun.trans hcount).mono (by decide), hleft, hw⟩
  | false =>
    have hexit : s.params.aliveEarlyExit = false := hgoes.resolve_left (by simp [hgood])
    rw [hgood, if_neg Bool.false_ne_true] at hv
    obtain ⟨w, hnote, hleft, hw⟩ := hv.exists_noted hleft
    rw [hexit, if_neg Bool.false_ne_true] at hw
    obtain ⟨x, hcount, hleft, hx⟩ := hw.exists_counted hk hleft
    rw [Bool.and_false]
    exact ⟨x, (hrun.trans hnote).trans hcount, hleft, hx⟩

/-- A failed iteration ends the probe at once with P_ALIVE_EARLY_EXIT (R322, D18). -/
theorem Probing.exists_stopped (h : Probing id s u .probeLoop k alive mask (a.before s.cfgDrain 2 e)) (hk : k < 10)
    (ha : a.Possible 2 66) (hbad : a.good s.params id = false) (hexit : s.params.aliveEarlyExit = true) :
    ∃ v, Runs (statesOf (.isServoAlive id)) 15 u v ∧ Cleared v (a.left 66) ∧
      Probing id s v .probeFinish k false ((a.mask s.params id).getD mask)
        (e.did (a.actions s.cfgDrain (encodeFrame (.readEeprom (idBits id))) 66)) := by
  obtain ⟨v, hrun, hleft, hv⟩ := h.exists_verdict hk ha
  rw [hbad, if_neg Bool.false_ne_true] at hv
  obtain ⟨w, hnote, hleft, hw⟩ := hv.exists_noted hleft
  rw [hexit, if_pos rfl] at hw
  exact ⟨w, hrun.trans hnote, hleft, hw⟩

/-- The mask the attempts leave after one they begin with (R35). -/
def maskAfter (p : Params) (id : Int) (mask : BitVec 22) (as : List Attempt) : BitVec 22 :=
  as.foldl (fun m a => (a.mask p id).getD m) mask

/-- What the last attempt leaves in RXBUF, or what stood there where there was none. -/
def lastLeft (left : List Byte) (as : List Attempt) : List Byte := (as.getLast?.map (Attempt.left 66)).getD left

theorem lastLeft_cons (left : List Byte) (a : Attempt) (as : List Attempt) :
    lastLeft left (a :: as) = lastLeft (a.left 66) as := by
  simp only [lastLeft, List.getLast?_cons]
  cases as.getLast? <;> rfl

/-- Several iterations that each go on to the next (R322). -/
theorem Probing.exists_iterated_all (as : List Attempt) : ∀ {u : State} {k : Nat} {alive : Bool} {mask : BitVec 22}
    {e : Env}, Probing id s u .probeLoop k alive mask (attemptsBefore s.cfgDrain 2 as e) → k + as.length ≤ 10 →
    (∀ a ∈ as, a.Possible 2 66) → (∀ a ∈ as, a.good s.params id = true ∨ s.params.aliveEarlyExit = false) →
    ∃ v, Runs (statesOf (.isServoAlive id)) (16 * as.length) u v ∧
      (∀ left, (as = [] → Cleared u left) → Cleared v (lastLeft left as)) ∧
      Probing id s v .probeLoop (k + as.length) (alive && as.all (Attempt.good s.params id))
        (maskAfter s.params id mask as)
        (e.did (as.flatMap (Attempt.actions s.cfgDrain (encodeFrame (.readEeprom (idBits id))) 66))) := by
  induction as with
  | nil =>
    intro u k alive mask e h _ _ _
    have hdid : e.did [] = e := by simp [Env.did]
    refine ⟨u, ⟨0, by simp, fun _ => rfl⟩, fun left hleft => hleft rfl, ?_⟩
    rw [List.flatMap_nil, hdid, List.all_nil, Bool.and_true]
    exact h
  | cons a as ih =>
    intro u k alive mask e h hk hpossible hgoes
    rw [List.length_cons] at hk
    obtain ⟨v, hrun, hleft, hv⟩ := Probing.exists_iterated (e := attemptsBefore s.cfgDrain 2 as e) h (by omega)
      (hpossible a List.mem_cons_self) (hgoes a List.mem_cons_self)
    rw [attemptsBefore_did] at hv
    obtain ⟨w, hrest, hlast, hw⟩ := ih hv (by omega) (fun b hb => hpossible b (List.mem_cons_of_mem a hb))
      (fun b hb => hgoes b (List.mem_cons_of_mem a hb))
    refine ⟨w, (hrun.trans hrest).mono (by rw [List.length_cons]; omega), fun left _ => ?_, ?_⟩
    · rw [lastLeft_cons]
      exact hlast _ fun _ => hleft
    · rw [did_did, ← List.flatMap_cons, show k + 1 + as.length = k + (as.length + 1) by omega] at hw
      rw [List.length_cons, List.all_cons, ← Bool.and_assoc]
      exact hw

/-! ## The whole probe -/

/-- IS_SERVO_ALIVE accepted and admitted (R322, R342). -/
theorem exists_probing (hid : idInRange id = true) (hs : s.Ready) : ∃ u,
    Runs (statesOf (.isServoAlive id)) 1 (accept (requestOf (.isServoAlive id)) s) u ∧
      Probing id s u .probeLoop 0 true 0 s.env := by
  have hadmit : statesOf (.isServoAlive id) (accept (requestOf (.isServoAlive id)) s) = .next (goto .probeLoop
      { accept (requestOf (.isServoAlive id)) s with
        latch := { (accept (requestOf (.isServoAlive id)) s).latch with alive := true, aliveI := 0 } }) := by
    simp only [statesOf, isServoAliveStates, accept_seq, requestOf, entryState, hid]
    rfl
  exact ⟨_, .one (by simp [requestOf, entryState]) hadmit rfl, rfl, rfl, rfl, rfl, rfl, ⟨rfl, rfl, rfl, rfl⟩, rfl,
    hs.txWf⟩

/-- The probe's end: RET Ok, whatever it has found (R322, D18). -/
theorem Probing.finishes (h : Probing id s u .probeFinish k alive mask e) (hleft : Cleared u left) (hs : s.Ready)
    {n : Nat} (hrun : Runs (statesOf (.isServoAlive id)) n (accept (requestOf (.isServoAlive id)) s) u) (hn : n ≤ 255) :
    ∃ t, exec (.isServoAlive id) s = .next t ∧
      EndsWith (.isServoAlive id) s t { ret := .ok, outAlive := alive, invalidMask := mask } left e := by
  have hstep : statesOf (.isServoAlive id) u = .next (complete 0 u.latch.alive {} u) := by
    simp only [statesOf, isServoAliveStates, h.seq]
  refine ⟨_, exec_eq_of_runs hs (hrun.trans (.one (by simp [h.seq]) hstep rfl)) (by omega) rfl, rfl, hleft.dir,
    hleft.txbuf, hleft.rxbuf, ?_, h.env, h.config.trans ⟨rfl, rfl, rfl, rfl⟩, h.request⟩
  rw [complete_res, h.alive, h.mask]

/-- After ten iterations the probe ends (R322). -/
theorem Probing.exists_finished (h : Probing id s u .probeLoop 10 alive mask e) (hleft : Cleared u left) :
    ∃ v, Runs (statesOf (.isServoAlive id)) 1 u v ∧ Cleared v left ∧ Probing id s v .probeFinish 10 alive mask e := by
  have hge : ¬ u.latch.aliveI < aliveN := by
    rw [BitVec.lt_def, h.count]
    decide
  have hstep : statesOf (.isServoAlive id) u = .next (goto .probeFinish u) := by
    simp only [statesOf, isServoAliveStates, h.seq, if_neg hge]
  exact ⟨_, .one (by simp [h.seq]) hstep rfl, ⟨hleft.dir, hleft.txbuf, hleft.rxbuf⟩,
    h.moves rfl rfl rfl h.mask rfl ⟨rfl, rfl, rfl, rfl⟩ rfl rfl⟩

/-- Ten attempts made, none of which ends the probe before (R322). -/
theorem probe_endsWith_of_ten {as : List Attempt} (hid : idInRange id = true) (hs : s.Ready) (hlen : as.length = 10)
    (hpossible : ∀ a ∈ as, a.Possible 2 66)
    (hgoes : ∀ a ∈ as, a.good s.params id = true ∨ s.params.aliveEarlyExit = false)
    (he : s.env = attemptsBefore s.cfgDrain 2 as e) : ∃ t, exec (.isServoAlive id) s = .next t ∧
      EndsWith (.isServoAlive id) s t
        { ret := .ok, outAlive := as.all (Attempt.good s.params id), invalidMask := maskAfter s.params id 0 as }
        (lastLeft [] as)
        (e.did (as.flatMap (Attempt.actions s.cfgDrain (encodeFrame (.readEeprom (idBits id))) 66))) := by
  obtain ⟨u, hstart, hu⟩ := exists_probing hid hs
  rw [he] at hu
  obtain ⟨v, hrun, hleft, hv⟩ := Probing.exists_iterated_all as hu (by omega) hpossible hgoes
  have hleft := hleft [] fun hnil => by simp [hnil] at hlen
  rw [hlen] at hrun hv
  obtain ⟨w, hend, hleft, hw⟩ := hv.exists_finished hleft
  exact hw.finishes hleft hs ((hstart.trans hrun).trans hend) (by decide)

/-- With P_ALIVE_EARLY_EXIT a failed attempt is the last (R322, D18). -/
theorem probe_endsWith_of_bad {as : List Attempt} (hid : idInRange id = true) (hs : s.Ready) (hlen : as.length < 10)
    (hpossible : ∀ b ∈ as ++ [a], b.Possible 2 66) (hgood : ∀ b ∈ as, b.good s.params id = true)
    (hbad : a.good s.params id = false) (hexit : s.params.aliveEarlyExit = true)
    (he : s.env = attemptsBefore s.cfgDrain 2 (as ++ [a]) e) : ∃ t, exec (.isServoAlive id) s = .next t ∧
      EndsWith (.isServoAlive id) s t { ret := .ok, invalidMask := maskAfter s.params id 0 (as ++ [a]) }
        (lastLeft [] (as ++ [a]))
        (e.did ((as ++ [a]).flatMap (Attempt.actions s.cfgDrain (encodeFrame (.readEeprom (idBits id))) 66))) := by
  obtain ⟨u, hstart, hu⟩ := exists_probing hid hs
  have hsplit : attemptsBefore s.cfgDrain 2 (as ++ [a]) e =
      attemptsBefore s.cfgDrain 2 as (a.before s.cfgDrain 2 e) := List.foldr_append
  rw [he, hsplit] at hu
  obtain ⟨v, hrun, -, hv⟩ := Probing.exists_iterated_all as hu (by omega)
    (fun b hb => hpossible b (List.mem_append_left _ hb)) fun b hb => .inl (hgood b hb)
  rw [attempt_before_did] at hv
  obtain ⟨w, hstop, hleft, hw⟩ := hv.exists_stopped (by omega) (hpossible a (by simp)) hbad hexit
  have hends := hw.finishes hleft hs ((hstart.trans hrun).trans hstop) (by omega)
  rw [did_did] at hends
  simpa [maskAfter, lastLeft] using hends

/-! ## The mask -/

/-- Attempts that are all good leave no violation (R271). -/
theorem maskAfter_of_good {p : Params} {as : List Attempt} (h : ∀ a ∈ as, a.good p id = true) :
    maskAfter p id 0 as = 0 := by
  induction as with
  | nil => rfl
  | cons a as ih =>
    have hmask : (a.mask p id).getD 0 = 0 := by
      cases hp : a.passes id with
      | false => rw [(attempt_of_not_passes p hp).2]; rfl
      | true =>
        obtain ⟨record, -, -, hmask, hgood⟩ := attempt_of_passes p hp
        have hok := h a List.mem_cons_self
        rw [hgood, Bool.and_eq_true] at hok
        rw [hmask, Option.getD_some]
        exact of_decide_eq_true hok.1
    rw [maskAfter, List.foldl_cons, hmask]
    exact ih fun b hb => h b (List.mem_cons_of_mem a hb)

theorem maskAfter_eq (p : Params) (mask : BitVec 22) (as : List Attempt) :
    maskAfter p id mask as = (as.filterMap (Attempt.mask p id)).getLast?.getD mask := by
  induction as generalizing mask with
  | nil => rfl
  | cons a as ih =>
    rw [maskAfter, List.foldl_cons, ← maskAfter, ih, List.filterMap_cons]
    cases a.mask p id with
    | none => rfl
    | some m => rw [List.getLast?_cons, Option.getD_some, Option.getD_some]

theorem lastMask_eq (p : Params) (as : List Attempt) : lastMask p id as = maskAfter p id 0 as :=
  (maskAfter_eq p 0 as).symm

end

/-- Settles O23: ten good attempts, none of which ends the probe (`probe_endsWith_of_ten`), and no violation
(`maskAfter_of_good`). -/
theorem tenGoodReadsAreAlive : Obligations.TenGoodReadsAreAlive := by
  intro id s os last e hid hs hlen hgood he
  have hattempts : ∀ a ∈ (os ++ [last]).map Attempt.offer, a.Possible 2 66 ∧ a.good s.params id = true := by
    intro a ha
    obtain ⟨o, ho, rfl⟩ := List.mem_map.mp ha
    obtain ⟨hdrains, hprobe⟩ := hgood o ho
    refine ⟨⟨hdrains, ?_⟩, hprobe⟩
    simp only [goodProbe, Bool.and_eq_true, decide_eq_true_eq] at hprobe
    exact hprobe.1.1.1.le
  have hall : ((os ++ [last]).map Attempt.offer).all (Attempt.good s.params id) = true :=
    List.all_eq_true.mpr fun a ha => (hattempts a ha).2
  have hbefore : offersBefore s.cfgDrain 2 (os ++ [last]) e =
      attemptsBefore s.cfgDrain 2 ((os ++ [last]).map Attempt.offer) e := by
    rw [attemptsBefore, List.foldr_map]
    rfl
  have hlast : lastLeft [] ((os ++ [last]).map Attempt.offer) = last.response := by
    have hprobe := (hgood last (by simp)).2
    simp only [goodProbe, Bool.and_eq_true, decide_eq_true_eq] at hprobe
    simp [lastLeft, Attempt.left, hprobe.1.1.1]
  obtain ⟨t, ht, hends⟩ := probe_endsWith_of_ten hid hs (by simp [hlen]) (fun a ha => (hattempts a ha).1)
    (fun a ha => .inl (hattempts a ha).2) (he.trans hbefore)
  rw [hall, maskAfter_of_good fun a ha => (hattempts a ha).2, hlast, List.flatMap_map] at hends
  exact ⟨t, ht, hends⟩

/-- Settles O24: with the early exit the failed attempt is the last (`probe_endsWith_of_bad`), without it all ten are
made (`probe_endsWith_of_ten`). -/
theorem oneBadReadIsNotAlive : Obligations.OneBadReadIsNotAlive := by
  intro id s made e hid hs hpossible hmade he
  rw [lastMask_eq]
  cases hexit : s.params.aliveEarlyExit with
  | true =>
    rw [hexit, if_pos rfl] at hmade
    obtain ⟨good, bad, rfl, hlen, hgood, hbad⟩ := hmade
    exact probe_endsWith_of_bad hid hs hlen hpossible hgood hbad hexit he
  | false =>
    rw [hexit, if_neg Bool.false_ne_true] at hmade
    obtain ⟨hlen, a, ha, hbad⟩ := hmade
    have hall : made.all (Attempt.good s.params id) = false := List.all_eq_false.mpr ⟨a, ha, by simp [hbad]⟩
    obtain ⟨t, ht, hends⟩ := probe_endsWith_of_ten hid hs hlen hpossible (fun _ _ => .inr hexit) he
    rw [hall] at hends
    exact ⟨t, ht, hends⟩

/-! ## Short transfers -/

/-- IS_SERVO_ALIVE with one short transfer and the early exit (R322, D18). -/
theorem probe_endsWith_of_short {id : Int} {s : State} {a : Attempt} {e : Env} (hid : idInRange id = true)
    (hs : s.Ready)
    (ha : a.Possible 2 66) (hfails : a.passes id = false) (hleft : a.left 66 = [])
    (hexit : s.params.aliveEarlyExit = true) (he : s.env = a.before s.cfgDrain 2 e) :
    ∃ t, exec (.isServoAlive id) s = .next t ∧ EndsWith (.isServoAlive id) s t { ret := .ok } []
      (e.did (a.actions s.cfgDrain (encodeFrame (.readEeprom (idBits id))) 66)) := by
  obtain ⟨hbad, hmask⟩ := attempt_of_not_passes s.params hfails
  have hends := probe_endsWith_of_bad (as := []) hid hs (by decide) (by simpa using ha) (by simp) hbad hexit he
  simpa only [List.nil_append, maskAfter, List.foldl_cons, List.foldl_nil, hmask, Option.getD_none, lastLeft,
    List.getLast?_singleton, Option.map_some, Option.getD_some, hleft, List.flatMap_cons, List.flatMap_nil,
    List.append_nil] using hends

/-- Settles O28: a short transfer fails the first exchange, which ends the operation (`statesOf_check_first_error`);
IS_SERVO_ALIVE takes it as its one failed attempt (O24). -/
theorem shortTransferEndsTheOperation : Obligations.ShortTransferEndsTheOperation := by
  intro i s command hbus hw hs hexit hcommand
  cases hprobe : isProbe i with
  | false =>
    obtain ⟨u, hcalled⟩ := exists_called_first hbus hprobe hw hs hcommand
    have hends : ∀ {c : RetCode} {n : Nat} {v : State} {e : Env}, Returned i s .first n c [] v e → c ≠ .ok → n ≤ 255 →
        ∃ t, exec i s = .next t ∧ EndsWith i s t { ret := c } [] e := fun h hc hn => by
      refine h.fails hs hn (statesOf_check_first_error hbus hprobe h.seq ?_)
      rw [exchangeResult, h.exRet, if_neg hc]
      rfl
    exact ⟨fun w ws hws hlt => hends (hcalled.shortWrite hws hlt) (by decide) (by decide),
      fun o e ho hlt he => hends (hcalled.shortRead ho hlt he) (by decide) (by decide)⟩
  | true =>
    obtain ⟨id, rfl⟩ : ∃ id, i = .isServoAlive id := by cases i <;> cases hprobe; exact ⟨_, rfl⟩
    cases hcommand
    refine ⟨fun w ws hws hlt => ?_, fun o e ho hlt he => ?_⟩
    · exact probe_endsWith_of_short (a := .shortWrite w) (e := { s.env with writes := ws }) hw hs hlt rfl rfl
        (hexit rfl) (by rw [Attempt.before, ← hws])
    · have hne : o.response.length ≠ 66 := hlt.ne
      exact probe_endsWith_of_short (a := .offer o) hw hs ⟨ho, hlt.le⟩ (by simp [Attempt.passes, hne])
        (by simp [Attempt.left, hne]) (hexit rfl) he

end Sys2Proof
end

section
/-!
SUPPORT. Two runs of one operation that differ in RXBUF and in the result registers (R76).
-/

namespace Sys2Proof

open Machine

/-! ## Two states alike -/

/-- v is u but for RXBUF and the result registers, with the same INVALID_MASK to come; in IDLE the result registers are
the same too, and with p so is RXBUF. -/
structure Twin (p : Prop) (u v : State) : Prop where
  same : v = { u with rxbuf := v.rxbuf, res := v.res }
  mask : finalMask v = finalMask u
  results : u.seq = .idle → v.res = u.res
  rxbuf : p → v.rxbuf = u.rxbuf

/-- Two states of one operation do the same thing, and what they come to is related. -/
def Moves (P : State → State → Prop) : Micro → Micro → Prop
  | .next u, .next v => P u v
  | .wait, .wait => True
  | .fault f, .fault g => f = g
  | _, _ => False

section

variable {p : Prop} {u v : State}

theorem Moves.next {P : State → State → Prop} (h : P u v) : Moves P (.next u) (.next v) := h

theorem Moves.imp {P Q : State → State → Prop} {a b : Micro} (h : Moves P a b)
    (himp : ∀ u v, a = .next u → b = .next v → P u v → Q u v) : Moves Q a b := by
  cases a <;> cases b
  case next.next => exact himp _ _ rfl rfl h
  all_goals exact h

theorem Twin.exists_eq (h : Twin p u v) : ∃ m r, v = { u with rxbuf := m, res := r } := ⟨_, _, h.same⟩

theorem Twin.seq (h : Twin p u v) : v.seq = u.seq := by rw [h.same]

theorem Twin.latch (h : Twin p u v) : v.latch = u.latch := by rw [h.same]

theorem Twin.txbuf (h : Twin p u v) : v.txbuf = u.txbuf := by rw [h.same]

theorem Twin.params (h : Twin p u v) : v.params = u.params := by rw [h.same]

theorem Twin.cfgDrain (h : Twin p u v) : v.cfgDrain = u.cfgDrain := by rw [h.same]

theorem Twin.env (h : Twin p u v) : v.env = u.env := by rw [h.same]

/-! ## What keeps them alike -/

/-- A change of what the two share. -/
theorem Twin.congr {u' v' : State} (h : Twin p u v) (hsame : v' = { u' with rxbuf := v'.rxbuf, res := v'.res })
    (hu : finalMask u' = finalMask u) (hv : finalMask v' = finalMask v) (hbusy : u'.seq ≠ .idle)
    (hrx : p → v'.rxbuf = u'.rxbuf) : Twin p u' v' :=
  ⟨hsame, hv.trans (h.mask.trans hu.symm), fun hidle => absurd hidle hbusy, hrx⟩

theorem Twin.goto (h : Twin p u v) (q : SeqState) (hq : q ≠ .idle := by simp) : Twin p (goto q u) (goto q v) :=
  h.congr (by rw [h.same]; rfl) rfl rfl hq h.rxbuf

theorem Twin.raiseFail (h : Twin p u v) (c : RetCode) : Twin p (raiseFail c u) (raiseFail c v) := by
  have hsame : (Machine.raiseFail c v).res = (Machine.raiseFail c u).res := by rw [raiseFail_res, h.mask]; rfl
  refine ⟨by rw [h.same]; rfl, ?_, fun _ => hsame, h.rxbuf⟩
  rw [finalMask, hsame, raiseFail_latch, h.latch]
  rfl

theorem Twin.complete (h : Twin p u v) (value : BitVec 16) (alive : Bool) (record : EepromRecord) :
    Twin p (complete value alive record u) (complete value alive record v) := by
  have hsame : (Machine.complete value alive record v).res = (Machine.complete value alive record u).res := by
    rw [complete_res, h.mask]; rfl
  refine ⟨by rw [h.same]; rfl, ?_, fun _ => hsame, h.rxbuf⟩
  rw [finalMask, hsame, complete_latch, h.latch]
  rfl

theorem Twin.validate (h : Twin p u v) (hbusy : u.seq ≠ .idle) (mode : ValidationMode) (record : EepromRecord) :
    Twin p (validate mode record u) (validate mode record v) :=
  ⟨by rw [h.same]; rfl, rfl, fun hidle => absurd hidle hbusy, h.rxbuf⟩

/-- A change of the latches that no validation is. -/
theorem Twin.setLatch (h : Twin p u v) (hbusy : u.seq ≠ .idle) (l : Latches)
    (hl : l.validated = u.latch.validated := by rfl) :
    Twin p { u with latch := l } { v with latch := l } := by
  refine h.congr (by rw [h.same]) ?_ ?_ hbusy h.rxbuf
  · simp only [finalMask, hl]
  · simp only [finalMask, hl, h.latch]

theorem Twin.setTxbuf (h : Twin p u v) (m : Memory) : Twin p { u with txbuf := m } { v with txbuf := m } :=
  ⟨by rw [h.same], h.mask, h.results, h.rxbuf⟩

theorem Twin.setEnv (h : Twin p u v) (e : Env) : Twin p { u with env := e } { v with env := e } :=
  ⟨by rw [h.same], h.mask, h.results, h.rxbuf⟩

theorem Twin.setRxbuf (h : Twin p u v) (m : Memory) {q : Prop} : Twin q { u with rxbuf := m } { v with rxbuf := m } :=
  ⟨by rw [h.same], h.mask, h.results, fun _ => rfl⟩

theorem Twin.driveDir (h : Twin p u v) (d : Bool) : Twin p (driveDir d u) (driveDir d v) :=
  ⟨by rw [h.same]; rfl, h.mask, h.results, h.rxbuf⟩

theorem Twin.emit (h : Twin p u v) (a : PortAction) : Twin p (emit a u) (emit a v) :=
  ⟨by rw [h.same]; rfl, h.mask, h.results, h.rxbuf⟩

theorem Twin.callExchange (h : Twin p u v) (turn : Turn) (n m : Nat) :
    Twin p (callExchange turn n m u) (callExchange turn n m v) :=
  h.congr (by rw [h.same]; rfl) rfl rfl (by simp) h.rxbuf

theorem Twin.sendFrame (h : Twin p u v) (turn : Turn) (f : Frame) (m : Nat) :
    Twin p (sendFrame turn f m u) (sendFrame turn f m v) := by
  rw [Machine.sendFrame, Machine.sendFrame, h.txbuf]
  exact (h.setTxbuf _).callExchange _ _ _

theorem Twin.ite {c : Prop} [Decidable c] {u' v' : State} (h : Twin p u v) (h' : Twin p u' v') :
    Twin p (if c then u else u') (if c then v else v') := by
  split_ifs
  · exact h
  · exact h'

theorem Twin.checked (h : Twin p u v) {α : Type} {r r' : Except RetCode α} (hr : r' = r)
    {next next' : α → State → State}
    (hnext : ∀ a, Twin p (next a u) (next' a v)) : Twin p (checked r next u) (checked r' next' v) := by
  subst hr
  cases r' with
  | ok a => exact hnext a
  | error c => exact h.raiseFail c

/-! ## One state -/

theorem Twin.write (h : Twin p u v) (hbusy : u.seq ≠ .idle) (turn : Turn) :
    Moves (Twin p) (exWrite turn u) (exWrite turn v) := by
  obtain ⟨m, r, rfl⟩ := h.exists_eq
  dsimp only [exWrite]
  split_ifs
  · have hcounted := h.setLatch hbusy
      { u.latch with exW := BitVec.ofNat 7 (min (takeWrite u.env).1 u.latch.exN.toNat) }
    exact .next (((hcounted.setEnv _).emit _).goto (.exchange turn .dirOff))
  · rfl

theorem Twin.checkW (h : Twin p u v) (hbusy : u.seq ≠ .idle) (turn : Turn) :
    Twin p (exCheckW turn u) (exCheckW turn v) := by
  obtain ⟨m, r, rfl⟩ := h.exists_eq
  exact .ite (((h.setRxbuf memZero).setLatch hbusy { u.latch with exRet := .writeError }).goto (.check turn))
    (h.goto (.exchange turn .zeroRx))

theorem Twin.drain (h : Twin p u v) (turn : Turn) : Moves (Twin p) (exDrain turn u) (exDrain turn v) := by
  obtain ⟨m, r, rfl⟩ := h.exists_eq
  dsimp only [exDrain]
  split
  · exact .next (h.goto (.exchange turn .read))
  · split_ifs
    · exact .next (((h.setEnv _).emit _).goto (.exchange turn .read))
    · split
      · trivial
      · exact .next (((h.setEnv _).emit _).emit _)

theorem Twin.read (h : Twin p u v) (hbusy : u.seq ≠ .idle) (turn : Turn) :
    Moves (Twin p) (exRead turn u) (exRead turn v) := by
  obtain ⟨m, r, rfl⟩ := h.exists_eq
  dsimp only [exRead]
  split_ifs
  · split
    · trivial
    · rename_i bytes rs _
      have hstored : Twin p { u with rxbuf := memWriteList u.rxbuf 0 (bytes.take u.latch.exM.toNat) }
          { u with rxbuf := memWriteList m 0 (bytes.take u.latch.exM.toNat), res := r } :=
        h.congr rfl rfl rfl hbusy fun hp => congrArg (memWriteList · 0 _) (h.rxbuf hp)
      have hcounted := hstored.setLatch hbusy
        { u.latch with exR := BitVec.ofNat 7 (bytes.take u.latch.exM.toNat).length }
      exact .next (((hcounted.setEnv _).emit _).goto (.exchange turn .checkR))
  · rfl

theorem Twin.checkR (h : Twin p u v) (hbusy : u.seq ≠ .idle) (turn : Turn) :
    Twin p (exCheckR turn u) (exCheckR turn v) := by
  obtain ⟨m, r, rfl⟩ := h.exists_eq
  exact .ite (((h.setRxbuf memZero).setLatch hbusy { u.latch with exRet := .readError }).goto (.check turn))
    ((h.setLatch hbusy { u.latch with exRet := .ok }).goto (.check turn))

/-- No state of EXCHANGE looks at RXBUF or the results (R141). -/
theorem Twin.exchangeStep (h : Twin p u v) {turn : Turn} {m : ExState} (hseq : u.seq = .exchange turn m) :
    Moves (Twin p) (exchangeStep turn m u) (exchangeStep turn m v) := by
  have hbusy : u.seq ≠ .idle := by simp [hseq]
  cases m with
  | dirOn => exact .next ((h.driveDir true).goto (.exchange turn .write))
  | write => exact h.write hbusy turn
  | dirOff => exact .next ((h.driveDir false).goto (.exchange turn .zeroTx))
  | zeroTx => exact .next ((h.setTxbuf memZero).goto (.exchange turn .checkW))
  | checkW => exact .next (h.checkW hbusy turn)
  | zeroRx => exact .next ((h.setRxbuf memZero).goto (.exchange turn .drain))
  | drain => exact h.drain turn
  | read => exact h.read hbusy turn
  | checkR => exact .next (h.checkR hbusy turn)

/-! ### The responses -/

theorem Twin.positionResponse (h : Twin True u v) (id : Int) : positionResponse id v = positionResponse id u := by
  simp only [Machine.positionResponse, exchangeResult, rx, decodedPosition, h.latch, h.rxbuf trivial]

theorem Twin.readResponse (h : Twin True u v) (id : Int) (sc : Byte) : readResponse id sc v = readResponse id sc u := by
  simp only [Machine.readResponse, exchangeResult, rx, h.latch, h.rxbuf trivial]

theorem Twin.writeResponse (h : Twin True u v) (id : Int) (sc : Byte) :
    writeResponse id sc v = writeResponse id sc u := by
  simp only [Machine.writeResponse, exchangeResult, rx, h.latch, h.rxbuf trivial]

theorem Twin.blockResponse (h : Twin True u v) (id : Int) : blockResponse id v = blockResponse id u := by
  simp only [Machine.blockResponse, exchangeResult, rx, h.latch, h.rxbuf trivial]

theorem Twin.blockWriteResponse (h : Twin True u v) (id : Int) :
    blockWriteResponse id v = blockWriteResponse id u := by
  simp only [Machine.blockWriteResponse, exchangeResult, rx, h.latch, h.rxbuf trivial]

theorem Twin.idReadResponse (h : Twin True u v) : idReadResponse v = idReadResponse u := by
  simp only [Machine.idReadResponse, exchangeResult, rx, h.latch, h.rxbuf trivial]

theorem Twin.idWriteResponse (h : Twin True u v) (id : Int) : idWriteResponse id v = idWriteResponse id u := by
  simp only [Machine.idWriteResponse, exchangeResult, rx, h.latch, h.rxbuf trivial]

theorem Twin.decodeBlock (h : Twin True u v) (hbusy : u.seq ≠ .idle) :
    Twin True (decodeBlock u) (decodeBlock v) := by
  obtain ⟨m, r, rfl⟩ := h.exists_eq
  obtain rfl : m = u.rxbuf := h.rxbuf trivial
  exact h.setLatch hbusy { u.latch with record := decodeRecord u.params.layout u.params.flagBits (rxBlock u) }

theorem Twin.encodeBlock (h : Twin True u v) (id : Int) (record : EepromRecord) :
    Twin True (encodeBlock id record u) (encodeBlock id record v) := by
  obtain ⟨m, r, rfl⟩ := h.exists_eq
  obtain rfl : m = u.rxbuf := h.rxbuf trivial
  exact h.setTxbuf
    (memWriteList u.txbuf 0 (encodeRecord u.params.layout u.params.flagBits record (rxBlock u) id))

/-! ### The operations -/

/-- The states that look at RXBUF: the checks of a response, the decoder and the encoder. -/
def readsResponse : SeqState → Bool
  | .check _ => true
  | .decodeBlock => true
  | .encodeBlock => true
  | _ => false

variable {i : Instr}

theorem Twin.finishPosition (h : Twin True u v) (id : Int) : Twin True (finishPosition id u) (finishPosition id v) :=
  h.checked (h.positionResponse id) fun _ => h.complete _ _ _

theorem Twin.setPosStates (h : Twin p u v) (hp : readsResponse u.seq = true → p) {id pos : Int} :
    Moves (Twin p) (setPosStates id pos u) (setPosStates id pos v) := by
  unfold Machine.setPosStates
  rw [h.seq]
  split <;> rename_i hseq
  · exact .next (.ite (h.raiseFail _) (.ite (h.raiseFail _) (h.goto _)))
  · exact .next (h.sendFrame _ _ _)
  · exact h.exchangeStep hseq
  · obtain rfl : p = True := eq_true (hp (by rw [hseq]; rfl))
    exact .next (h.finishPosition id)
  · trivial

theorem Twin.setPosWeakStates (h : Twin p u v) (hp : readsResponse u.seq = true → p) {id : Int} :
    Moves (Twin p) (setPosWeakStates id u) (setPosWeakStates id v) := by
  unfold Machine.setPosWeakStates
  rw [h.seq]
  split <;> rename_i hseq
  · exact .next (.ite (h.raiseFail _) (h.goto _))
  · exact .next (h.sendFrame _ _ _)
  · exact h.exchangeStep hseq
  · obtain rfl : p = True := eq_true (hp (by rw [hseq]; rfl))
    exact .next (h.finishPosition id)
  · trivial

theorem Twin.sampleKeep (h : Twin p u v) (hbusy : u.seq ≠ .idle) (k : Nat) :
    Twin p (sampleKeep k u) (sampleKeep k v) := by
  obtain ⟨m, r, rfl⟩ := h.exists_eq
  have hkept := h.setLatch hbusy { u.latch with keepPos := BitVec.ofNat 16 k }
  exact .ite (hkept.raiseFail _) (hkept.goto _)

theorem Twin.setPosWeakKeepStates (h : Twin p u v) (hp : readsResponse u.seq = true → p) {id : Int} :
    Moves (Twin p) (setPosWeakKeepStates id u) (setPosWeakKeepStates id v) := by
  unfold Machine.setPosWeakKeepStates
  rw [h.seq]
  split <;> rename_i hseq
  · exact .next (.ite (h.raiseFail _) (h.goto _))
  · exact .next (h.sendFrame _ _ _)
  · exact h.exchangeStep hseq
  · obtain rfl : p = True := eq_true (hp (by rw [hseq]; rfl))
    exact .next (h.checked (h.positionResponse id) fun k => h.sampleKeep (by simp [hseq]) k)
  · rw [h.latch]
    exact .next (h.sendFrame _ _ _)
  · exact h.exchangeStep hseq
  · obtain rfl : p = True := eq_true (hp (by rw [hseq]; rfl))
    rw [h.latch]
    exact .next (h.checked (h.positionResponse id) fun _ => h.complete _ _ _)
  · trivial

theorem Twin.readParamStates (h : Twin p u v) (hp : readsResponse u.seq = true → p) {id : Int} {kind : ParamKind} :
    Moves (Twin p) (readParamStates id kind u) (readParamStates id kind v) := by
  unfold Machine.readParamStates
  rw [h.seq]
  split <;> rename_i hseq
  · exact .next (.ite (h.raiseFail _) (.ite (h.raiseFail _) (h.goto _)))
  · rw [h.params]
    exact .next (h.sendFrame _ _ _)
  · exact h.exchangeStep hseq
  · obtain rfl : p = True := eq_true (hp (by rw [hseq]; rfl))
    rw [h.params]
    exact .next (h.checked (h.readResponse id _) fun _ => h.complete _ _ _)
  · trivial

theorem Twin.writeParamStates (h : Twin p u v) (hp : readsResponse u.seq = true → p) {id value : Int}
    {kind : ParamKind} :
    Moves (Twin p) (writeParamStates id kind value u) (writeParamStates id kind value v) := by
  unfold Machine.writeParamStates
  rw [h.seq]
  split <;> rename_i hseq
  · exact .next (.ite (h.raiseFail _) (.ite (h.raiseFail _) (.ite (h.raiseFail _) (h.goto _))))
  · rw [h.params]
    exact .next (h.sendFrame _ _ _)
  · exact h.exchangeStep hseq
  · obtain rfl : p = True := eq_true (hp (by rw [hseq]; rfl))
    rw [h.params]
    exact .next (h.checked (h.writeResponse id _) fun _ => h.complete _ _ _)
  · trivial

theorem Twin.readEepromStates (h : Twin p u v) (hp : readsResponse u.seq = true → p) {id : Int} :
    Moves (Twin p) (readEepromStates id u) (readEepromStates id v) := by
  unfold Machine.readEepromStates
  rw [h.seq]
  split <;> rename_i hseq
  · exact .next (.ite (h.raiseFail _) (h.goto _))
  · exact .next (h.sendFrame _ _ _)
  · exact h.exchangeStep hseq
  · obtain rfl : p = True := eq_true (hp (by rw [hseq]; rfl))
    exact .next (h.checked (h.blockResponse id) fun _ => h.goto _)
  · obtain rfl : p = True := eq_true (hp (by rw [hseq]; rfl))
    exact .next ((h.decodeBlock (by simp [hseq])).goto _)
  · rw [h.latch]
    have hvalidated := h.validate (by simp [hseq]) .read u.latch.record
    exact .next (.ite (hvalidated.complete _ _ _) (hvalidated.raiseFail _))
  · trivial

theorem Twin.readEepromRawStates (h : Twin p u v) (hp : readsResponse u.seq = true → p) {id : Int} :
    Moves (Twin p) (readEepromRawStates id u) (readEepromRawStates id v) := by
  unfold Machine.readEepromRawStates
  rw [h.seq]
  split <;> rename_i hseq
  · exact .next (.ite (h.raiseFail _) (h.goto _))
  · exact .next (h.sendFrame _ _ _)
  · exact h.exchangeStep hseq
  · obtain rfl : p = True := eq_true (hp (by rw [hseq]; rfl))
    exact .next (h.checked (h.blockResponse id) fun _ => h.complete _ _ _)
  · trivial

theorem Twin.writeEepromStates (h : Twin p u v) (hp : readsResponse u.seq = true → p) {id : Int}
    {record : EepromRecord} :
    Moves (Twin p) (writeEepromStates id record u) (writeEepromStates id record v) := by
  unfold Machine.writeEepromStates
  rw [h.seq]
  split <;> rename_i hseq
  · exact .next (.ite (h.raiseFail _) (h.goto _))
  · have hvalidated := h.validate (by simp [hseq]) .write record
    exact .next (.ite (hvalidated.goto _) (hvalidated.raiseFail _))
  · exact .next (h.sendFrame _ _ _)
  · exact h.exchangeStep hseq
  · obtain rfl : p = True := eq_true (hp (by rw [hseq]; rfl))
    exact .next (h.checked (h.blockResponse id) fun _ => h.goto _)
  · obtain rfl : p = True := eq_true (hp (by rw [hseq]; rfl))
    exact .next ((h.encodeBlock id record).goto _)
  · exact .next (h.callExchange _ _ _)
  · exact h.exchangeStep hseq
  · obtain rfl : p = True := eq_true (hp (by rw [hseq]; rfl))
    exact .next (h.checked (h.blockWriteResponse id) fun _ => h.complete _ _ _)
  · trivial

theorem Twin.getIdStates (h : Twin p u v) (hp : readsResponse u.seq = true → p) :
    Moves (Twin p) (getIdStates u) (getIdStates v) := by
  unfold Machine.getIdStates
  rw [h.seq]
  split <;> rename_i hseq
  · exact .next (h.goto _)
  · exact .next (h.sendFrame _ _ _)
  · exact h.exchangeStep hseq
  · obtain rfl : p = True := eq_true (hp (by rw [hseq]; rfl))
    exact .next (h.checked h.idReadResponse fun _ => h.complete _ _ _)
  · trivial

theorem Twin.setIdStates (h : Twin p u v) (hp : readsResponse u.seq = true → p) {id : Int} :
    Moves (Twin p) (setIdStates id u) (setIdStates id v) := by
  unfold Machine.setIdStates
  rw [h.seq]
  split <;> rename_i hseq
  · exact .next (.ite (h.raiseFail _) (h.goto _))
  · exact .next (h.sendFrame _ _ _)
  · exact h.exchangeStep hseq
  · obtain rfl : p = True := eq_true (hp (by rw [hseq]; rfl))
    exact .next (h.checked (h.idWriteResponse id) fun _ => h.complete _ _ _)
  · trivial

theorem Twin.isServoAliveStates (h : Twin p u v) (hp : readsResponse u.seq = true → p) {id : Int} :
    Moves (Twin p) (isServoAliveStates id u) (isServoAliveStates id v) := by
  unfold Machine.isServoAliveStates
  rw [h.seq]
  split <;> rename_i hseq
  · obtain ⟨m, r, rfl⟩ := h.exists_eq
    have hstarted := h.setLatch (by simp [hseq]) { u.latch with alive := true, aliveI := 0 }
    exact .next (.ite (h.raiseFail _) (hstarted.goto _))
  · rw [h.latch]
    exact .next (h.goto _ (by split_ifs <;> simp))
  · exact .next (h.sendFrame _ _ _)
  · exact h.exchangeStep hseq
  · obtain rfl : p = True := eq_true (hp (by rw [hseq]; rfl))
    rw [h.blockResponse]
    split
    · exact .next (h.goto _)
    · exact .next (h.goto _)
  · obtain rfl : p = True := eq_true (hp (by rw [hseq]; rfl))
    exact .next ((h.decodeBlock (by simp [hseq])).goto _)
  · rw [h.latch]
    exact .next ((h.validate (by simp [hseq]) .read u.latch.record).goto _ (by split_ifs <;> simp))
  · rw [h.latch]
    exact .next (h.goto _ (by split_ifs <;> simp))
  · obtain ⟨m, r, rfl⟩ := h.exists_eq
    have hnoted := h.setLatch (by simp [hseq]) { u.latch with alive := false }
    exact .next (hnoted.goto _ (by split_ifs <;> simp))
  · obtain ⟨m, r, rfl⟩ := h.exists_eq
    have hcounted := h.setLatch (by simp [hseq]) { u.latch with aliveI := u.latch.aliveI + 1 }
    exact .next (hcounted.goto _)
  · rw [h.latch]
    exact .next (h.complete _ _ _)
  · trivial

end

end Sys2Proof
end

section
/-!
SUPPORT. The RXBUF of an operation's start reaches none of its states (R76, R141).
-/

namespace Sys2Proof

open Machine

section

variable {i : Instr} {p : Prop} {u v u' v' s t : State}

/-! ## Every operation -/

theorem Twin.initStates (h : Twin p u v) {baud : Int} {modesel : Bool} :
    Moves (Twin p) (initStates baud modesel u) (initStates baud modesel v) := by
  unfold Machine.initStates
  rw [h.seq]
  split <;> rename_i hseq
  · exact .next (.ite (h.raiseFail _) (h.goto _ (by split_ifs <;> simp)))
  · exact .next ((h.driveDir true).goto _)
  · obtain ⟨m, r, rfl⟩ := h.exists_eq
    dsimp only
    split_ifs
    · trivial
    · exact .next (((h.setEnv { u.env with delays := u.env.delays - 1 }).emit _).goto .initSetBaud)
  · exact .next ((h.emit _).goto _)
  · exact .next ((h.emit _).goto _ (by split_ifs <;> simp))
  · exact .next ((h.driveDir false).goto _)
  · have hprogrammed : Twin p { u with cfgBaud := baudValue baud, initDone := true }
        { v with cfgBaud := baudValue baud, initDone := true } :=
      h.congr (by rw [h.same]) rfl rfl (by simp [hseq]) h.rxbuf
    exact .next (hprogrammed.complete _ _ _)
  · trivial

theorem Twin.setBaudStates (h : Twin p u v) {baud : Int} :
    Moves (Twin p) (setBaudStates baud u) (setBaudStates baud v) := by
  unfold Machine.setBaudStates
  rw [h.seq]
  split <;> rename_i hseq
  · exact .next (.ite (h.raiseFail _) (h.goto _))
  · exact .next ((h.emit _).goto _)
  · have hprogrammed : Twin p { u with cfgBaud := baudValue baud } { v with cfgBaud := baudValue baud } :=
      h.congr (by rw [h.same]) rfl rfl (by simp [hseq]) h.rxbuf
    exact .next (hprogrammed.complete _ _ _)
  · trivial

/-- No state of an operation looks at the results (R76), and only the checks of a response, the decoder and the encoder
look at RXBUF. -/
theorem Twin.statesOf (h : Twin p u v) (hp : usesBus i = true → readsResponse u.seq = true → p) :
    Moves (Twin p) (statesOf i u) (statesOf i v) := by
  cases i with
  | init => exact h.initStates
  | setBaud => exact h.setBaudStates
  | setPos => exact h.setPosStates (hp rfl)
  | setPosWeak => exact h.setPosWeakStates (hp rfl)
  | setPosWeakKeep => exact h.setPosWeakKeepStates (hp rfl)
  | readParam | readStretch | readSpeed | readCurrent | readTemperature => exact h.readParamStates (hp rfl)
  | writeParam | writeStretch | writeSpeed | writeCurrent | writeTemperature => exact h.writeParamStates (hp rfl)
  | readEeprom => exact h.readEepromStates (hp rfl)
  | readEepromRaw => exact h.readEepromRawStates (hp rfl)
  | writeEeprom => exact h.writeEepromStates (hp rfl)
  | isServoAlive => exact h.isServoAliveStates (hp rfl)
  | getId => exact h.getIdStates (hp rfl)
  | setId => exact h.setIdStates (hp rfl)

/-- Runs whose states move alike come to states alike. -/
theorem drive_moves {prog : State → Micro} {P : State → State → Prop} (hseq : ∀ u v, P u v → v.seq = u.seq)
    (hstep : ∀ u v, P u v → u.seq ≠ .idle → Moves P (prog u) (prog v)) :
    ∀ {n : Nat} {u v t : State}, P u v → drive prog n u = .next t → ∃ t', drive prog n v = .next t' ∧ P t t' := by
  intro n
  induction n with
  | zero =>
    intro u v t h ht
    obtain rfl := Host.Outcome.next.inj ht
    exact ⟨v, rfl, h⟩
  | succ n ih =>
    intro u v t h ht
    by_cases hidle : u.seq = .idle
    · rw [drive_idle hidle] at ht
      obtain rfl := Host.Outcome.next.inj ht
      exact ⟨v, drive_idle ((hseq _ _ h).trans hidle) _, h⟩
    · have hidle' : v.seq ≠ .idle := by rwa [hseq u v h]
      have hmoves := hstep u v h hidle
      cases hu : prog u with
      | next u' =>
        cases hv : prog v with
        | next v' =>
          rw [hu, hv] at hmoves
          rw [drive_next hidle hu] at ht
          rw [drive_next hidle' hv]
          exact ih hmoves ht
        | wait | fault => rw [hu, hv] at hmoves; exact hmoves.elim
      | wait =>
        cases hv : prog v with
        | wait =>
          rw [drive_wait hu] at ht
          obtain rfl := Host.Outcome.next.inj ht
          exact ⟨v, drive_wait hv _, h⟩
        | next | fault => rw [hu, hv] at hmoves; exact hmoves.elim
      | fault => simp [drive, hidle, hu] at ht

/-! ## Before the first exchange clears RXBUF -/

/-- The EXCHANGE states up to RXBUF's clearing (R141). -/
def Machine.ExState.beforeClear : ExState → Bool
  | .drain => false
  | .read => false
  | .checkR => false
  | _ => true

/-- A bus operation whose first exchange has not yet cleared RXBUF, with what its operand checks have found. -/
inductive Early (i : Instr) (u : State) : Prop
  | admission (hseq : u.seq = .admission)
  | record {id : Int} {record : EepromRecord} (hi : i = .writeEeprom id record)
      (hid : idInRange id = true) (hseq : u.seq = .validateRecord)
  | probe (hw : i.wellFormed = true) (hseq : u.seq = .probeLoop) (hcount : u.latch.aliveI = 0)
  | build (hw : i.wellFormed = true) (hseq : u.seq = .build .first)
  | exchange {m : ExState} (hw : i.wellFormed = true) (hseq : u.seq = .exchange .first m) (hm : m.beforeClear = true)

/-- RXBUF is what it was when i began: i is no bus operation, or has not come to its first exchange's clearing, or has
ended without one. -/
def Untouched (i : Instr) (u : State) : Prop :=
  usesBus i = false ∨ Early i u ∨ u.seq = .idle ∧ i.wellFormed = false

theorem Early.busy (h : Early i u) : u.seq ≠ .idle := by cases h <;> simp [*]

theorem Early.not_readsResponse (h : Early i u) : readsResponse u.seq = false := by
  cases h <;> simp [*, readsResponse]

theorem Untouched.not_readsResponse (h : Untouched i u) (hbus : usesBus i = true) : readsResponse u.seq = false := by
  rcases h with h | h | ⟨h, -⟩
  · simp [h] at hbus
  · exact h.not_readsResponse
  · rw [h]; rfl

theorem Early.congr (h : Early i u) (hseq : v.seq = u.seq) (hlatch : v.latch = u.latch) : Early i v := by
  cases h with
  | admission hu => exact .admission (hseq.trans hu)
  | record hi hid hu => exact .record hi hid (hseq.trans hu)
  | probe hw hu hcount => exact .probe hw (hseq.trans hu) (by rw [hlatch, hcount])
  | build hw hu => exact .build hw (hseq.trans hu)
  | exchange hw hu hm => exact .exchange hw (hseq.trans hu) hm

theorem Untouched.congr (h : Untouched i u) (hseq : v.seq = u.seq) (hlatch : v.latch = u.latch) : Untouched i v :=
  h.imp_right (Or.imp (·.congr hseq hlatch) fun ⟨hidle, hw⟩ => ⟨hseq.trans hidle, hw⟩)

/-- An operation that has not read RXBUF goes on without touching it, or clears it (R141). -/
def KeepsOrClears (i : Instr) (u u' : State) : Prop :=
  Untouched i u' ∧ u'.rxbuf = u.rxbuf ∨ ¬ Untouched i u' ∧ i.wellFormed = true ∧ u'.rxbuf = memZero

theorem Early.exchangeStep (hbus : usesBus i = true) (hw : i.wellFormed = true) {m : ExState}
    (hseq : u.seq = .exchange .first m) (hm : m.beforeClear = true) (h : exchangeStep .first m u = .next u') :
    KeepsOrClears i u u' := by
  have hgone : ∀ w : State, w.seq = .check .first ∨ w.seq = .exchange .first .drain → ¬ Untouched i w := by
    rintro w hw' (hlink | hearly | ⟨hidle, -⟩)
    · simp [hlink] at hbus
    · rcases hw' with hw' | hw' <;> cases hearly <;> simp_all [Machine.ExState.beforeClear]
    · simp [hidle] at hw'
  cases m with
  | drain | read | checkR => cases hm
  | dirOn | dirOff | zeroTx =>
    obtain rfl := Micro.next.inj h
    exact .inl ⟨.inr (.inl (.exchange hw rfl rfl)), rfl⟩
  | write =>
    dsimp only [Machine.exchangeStep, exWrite] at h
    split_ifs at h
    obtain rfl := Micro.next.inj h
    exact .inl ⟨.inr (.inl (.exchange hw rfl rfl)), rfl⟩
  | checkW =>
    obtain rfl := Micro.next.inj h
    unfold exCheckW
    split_ifs
    · exact .inr ⟨hgone _ (.inl rfl), hw, rfl⟩
    · exact .inl ⟨.inr (.inl (.exchange hw rfl rfl)), rfl⟩
  | zeroRx =>
    obtain rfl := Micro.next.inj h
    exact .inr ⟨hgone _ (.inr rfl), hw, rfl⟩

theorem Early.keepsOrClears (hbus : usesBus i = true) (h : Early i u) (hmove : BusMove i u u') :
    KeepsOrClears i u u' := by
  cases hmove
  case refuse hw hseq => exact .inl ⟨.inr (.inr ⟨rfl, hw⟩), rfl⟩
  case enter hw hseq => exact .inl ⟨.inr (.inl (.build hw rfl)), rfl⟩
  case enterProbe hw hseq => exact .inl ⟨.inr (.inl (.probe hw rfl rfl)), rfl⟩
  case enterRecord hi hid hseq => exact .inl ⟨.inr (.inl (.record hi hid rfl)), rfl⟩
  case refuseRecord hi hrec hseq =>
    have hw : i.wellFormed = false := by simp [hi, Instr.wellFormed, hrec]
    exact .inl ⟨.inr (.inr ⟨rfl, hw⟩), rfl⟩
  case acceptRecord hi hrec hseq =>
    have hw : i.wellFormed = true := by
      cases h with
      | record hi' hid =>
        cases hi.symm.trans hi'
        simp [hi, Instr.wellFormed, hrec, hid]
      | _ => simp_all
    exact .inl ⟨.inr (.inl (.build hw rfl)), rfl⟩
  case probeRead hseq =>
    cases h with
    | probe hw => exact .inl ⟨.inr (.inl (.build hw rfl)), rfl⟩
    | _ => simp_all
  case probeStop hcount _ hseq =>
    cases h with
    | probe hw hu hzero => exact absurd (by rw [hzero]; decide) hcount
    | _ => simp_all
  case send hseq =>
    cases h with
    | build hw => exact .inl ⟨.inr (.inl (.exchange hw rfl rfl)), rfl⟩
    | _ => simp_all
  case exchange hseq hstep =>
    cases h with
    | exchange hw hu hm =>
      cases hseq.symm.trans hu
      exact Early.exchangeStep hbus hw hu hm hstep
    | _ => simp_all
  -- Every other move is from a state past the clearing.
  all_goals
    rename_i hseq
    cases h <;> simp_all

theorem Untouched.keepsOrClears (h : Untouched i u) (hbusy : u.seq ≠ .idle) (hcanonical : instrOf (requestOf i) = i)
    (hstep : Machine.statesOf i u = .next u') : KeepsOrClears i u u' := by
  rcases h with hlink | hearly | ⟨hidle, -⟩
  · exact .inl ⟨.inl hlink, (linkFrame_of_statesOf hlink hstep).rxbuf⟩
  · cases hbus : usesBus i with
    | true => exact hearly.keepsOrClears hbus (hcanonical ▸ busMove_of_statesOf hbus hstep)
    | false => exact .inl ⟨.inl hbus, (linkFrame_of_statesOf hbus hstep).rxbuf⟩
  · exact absurd hidle hbusy

/-- Two runs of i that began with RXBUF as in a and in b: alike in all but the results, or not yet past the RXBUF they
began with. -/
def Rerun (i : Instr) (a b : Memory) (u v : State) : Prop :=
  Twin True u v ∧ usesBus i = true ∧ i.wellFormed = true ∨
    Twin False u v ∧ Untouched i u ∧ u.rxbuf = a ∧ v.rxbuf = b

theorem Rerun.twin {a b : Memory} (h : Rerun i a b u v) : Twin False u v := by
  rcases h with ⟨h, -⟩ | ⟨h, -⟩
  · exact { h with rxbuf := False.elim }
  · exact h

theorem Rerun.moves {a b : Memory} (hcanonical : instrOf (requestOf i) = i) (h : Rerun i a b u v)
    (hbusy : u.seq ≠ .idle) : Moves (Rerun i a b) (Machine.statesOf i u) (Machine.statesOf i v) := by
  rcases h with ⟨h, hdomain⟩ | ⟨h, huntouched, ha, hb⟩
  · exact (h.statesOf fun _ _ => trivial).imp fun _ _ _ _ htwin => .inl ⟨htwin, hdomain⟩
  · have hreads : usesBus i = true → readsResponse u.seq = true → False := fun hbus hreads => by
      simp [huntouched.not_readsResponse hbus] at hreads
    refine (h.statesOf hreads).imp fun u' v' hu hv htwin => ?_
    have huntouched' := huntouched.congr h.seq h.latch
    have hbusy' : v.seq ≠ .idle := by rwa [h.seq]
    rcases huntouched.keepsOrClears hbusy hcanonical hu with ⟨hon, hrx⟩ | ⟨hoff, hw, hrx⟩ <;>
      rcases huntouched'.keepsOrClears hbusy' hcanonical hv with ⟨hon', hrx'⟩ | ⟨hoff', -, hrx'⟩
    · exact .inr ⟨htwin, hon, hrx.trans ha, hrx'.trans hb⟩
    · exact absurd (hon.congr htwin.seq htwin.latch) hoff'
    · exact absurd (hon'.congr htwin.seq.symm htwin.latch.symm) hoff
    · have hbus : usesBus i = true := Bool.of_not_eq_false fun hlink => hoff (.inl hlink)
      exact .inl ⟨{ htwin with rxbuf := fun _ => hrx'.trans hrx.symm }, hbus, hw⟩

/-- IDLE takes i with any RXBUF, latches and results (R26). -/
theorem rerun_accept (m : Memory) (l : Latches) (r : Results) :
    Rerun i s.rxbuf m (accept (requestOf i) s)
      (accept (requestOf i) { s with rxbuf := m, latch := l, res := r }) := by
  have hbusy : entryState (requestOf i).op ≠ .idle := by
    rcases entryState_cases (requestOf i).op with h | h | h <;> simp [h]
  refine .inr ⟨⟨rfl, rfl, fun hidle => absurd hidle hbusy, False.elim⟩, ?_, rfl, rfl⟩
  cases hbus : usesBus i with
  | false => exact .inl hbus
  | true =>
    refine .inr (.inl (.admission ?_))
    cases i <;> cases hbus <;> rfl

/-- No state before the first drain waits (R28). -/
theorem Early.not_wait (h : Early i u) (hcourse : OnCourse i u) : Machine.statesOf i u ≠ .wait := by
  have hbelongs := hcourse.belongs h.busy
  by_cases hexchange : ∃ turn m, u.seq = .exchange turn m
  · cases h with
    | exchange hw hseq hm =>
      rw [statesOf_exchange_of_belongs hseq hbelongs]
      rename_i m
      cases m with
      | write =>
        dsimp only [Machine.exchangeStep, exWrite]
        split_ifs <;> simp
      | drain | read | checkR => cases hm
      | _ => exact Micro.noConfusion
    | _ => simp_all
  · have hno : u.waits = false := by cases h <;> simp_all [State.waits]
    rcases statesOf_answers hbelongs fun turn m hseq => hexchange ⟨turn, m, hseq⟩ with ⟨hwaits, -⟩ | ⟨-, u', hu⟩
    · rw [hno] at hwaits
      cases hwaits
    · rw [hu]
      exact Micro.noConfusion

/-- A bus operation that passed its checks has cleared RXBUF when it ends or waits. -/
theorem Rerun.rxbuf_of_ends {a b : Memory} (h : Rerun i a b u v) (hbus : usesBus i = true) (hw : i.wellFormed = true)
    (hcourse : OnCourse i u) (hends : u.seq = .idle ∨ Machine.statesOf i u = .wait) : v.rxbuf = u.rxbuf := by
  rcases h with ⟨h, -⟩ | ⟨-, hlink | hearly | ⟨-, hw'⟩, -⟩
  · exact h.rxbuf trivial
  · simp [hlink] at hbus
  · exact (hends.elim hearly.busy (hearly.not_wait hcourse)).elim
  · simp [hw] at hw'

theorem Rerun.rxbuf_of_untouched {a b : Memory} (h : Rerun i a b u v) (hno : usesBus i = false ∨ i.wellFormed = false) :
    v.rxbuf = b ∧ u.rxbuf = a := by
  rcases h with ⟨-, hbus, hw⟩ | ⟨-, -, ha, hb⟩
  · simp [hbus, hw] at hno
  · exact ⟨hb, ha⟩

/-- A run of i from IDLE ends in IDLE or at a wait, on i's course. -/
theorem drive_accept_ends (h : drive (Machine.statesOf i) (driveBound s) (accept (requestOf i) s) = .next t) :
    OnCourse i t ∧ (t.seq = .idle ∨ Machine.statesOf i t = .wait) :=
  ⟨drive_keeps (fun _ _ hu _ hv => statesOf_onCourse hu hv) (onCourse_accept i s) h,
    Machine.drive_ends workLeft (fun _ _ hu _ hv => ⟨statesOf_onCourse hu hv, statesOf_lowers hu hv⟩)
      (onCourse_accept i s) (workLeft_lt_driveBound (accept (requestOf i) s)) h⟩

/-- What a run of i from IDLE is: the run of its states. -/
theorem exec_idle (hidle : s.seq = .idle) (h : exec i s = .next t) :
    ((requestOf i).op = .init ∨ s.initDone = true) ∧
      drive (Machine.statesOf i) (driveBound s) (accept (requestOf i) s) = .next t := by
  rw [exec_eq_operate] at h
  rcases operate_cases h with ⟨-, -, -, ho⟩ | ⟨-, hready, ho⟩ | ⟨hbusy, -⟩ | ⟨hbusy, -⟩
  · cases ho
  · exact ⟨hready, ho.symm⟩
  · exact absurd hidle hbusy
  · exact absurd hidle hbusy

/-- The run of i from IDLE beside another RXBUF, other latches and other results. -/
theorem exec_rerun (hcanonical : instrOf (requestOf i) = i) (hidle : s.seq = .idle) (h : exec i s = .next t)
    (m : Memory) (l : Latches) (r : Results) :
    ∃ t', exec i { s with rxbuf := m, latch := l, res := r } = .next t' ∧ Rerun i s.rxbuf m t t' := by
  obtain ⟨hready, hrun⟩ := exec_idle hidle h
  rw [exec_eq_operate,
    operate_ready (s := { s with rxbuf := m, latch := l, res := r }) hidle hready]
  exact drive_moves (fun _ _ hu => hu.twin.seq) (fun _ _ hu hbusy => hu.moves hcanonical hbusy)
    (rerun_accept m l r) hrun

end

/-- Settles O49: the two runs move alike (`Rerun.moves`), and a bus operation that passes its operand checks clears
RXBUF before it can wait, end or look at it (`Early`). -/
theorem noResidueBetweenOperations : Obligations.NoResidueBetweenOperations := by
  intro i s t m l r hidle h
  rw [← usesBus_instrOf, ← wellFormed_instrOf]
  have hsame : ∀ u, exec i u = exec (instrOf (requestOf i)) u := fun u => by
    rw [exec_eq_operate, exec_eq_operate, requestOf_instrOf_requestOf, statesOf_instrOf]
  rw [hsame] at h ⊢
  obtain ⟨t', ht', hrerun⟩ := exec_rerun (by rw [requestOf_instrOf_requestOf]) hidle h m l r
  obtain ⟨hcourse, hends⟩ := drive_accept_ends (exec_idle hidle h).2
  have htwin := hrerun.twin
  have hconfig : SameConfig t t' := by rw [htwin.same]; exact ⟨rfl, rfl, rfl, rfl⟩
  exact ⟨t', ht', htwin.env, htwin.seq, by rw [htwin.same], htwin.txbuf, htwin.latch, hconfig, htwin.results,
    fun hbus hw => hrerun.rxbuf_of_ends hbus hw hcourse hends, hrerun.rxbuf_of_untouched⟩

end Sys2Proof
end
